-- ==== Sys2Proof/Word.lean ====
section
/-! DEFINITION. The block's two value widths (spec/00_scope.md R5): a byte and a 16-bit word. All values are unsigned. -/

namespace Sys2Proof

/-- A byte: 8 bits, value 0..255 (R5). -/
abbrev Byte := BitVec 8

/-- A 16-bit value: the accumulator, an address, a count, a register value (R4, R5, R54). -/
abbrev Word := BitVec 16

end Sys2Proof
end

