-- ==== Sys2Proof/Machine/Operands.lean ====
section
/-! DEFINITION. Operand and field assembly: the two bytes of a 16-bit field and back (spec/00_scope.md R6,
spec/20_memory.md R31), the function codes (spec/30_encoding.md R53), the bodies of the request frames (R46 to R48)
and the registers of a data window (spec/42_response_parse.md R91). -/

namespace Sys2Proof.Machine

/-- `hi8(v) = v[15:8]` (R6). -/
def hi8 (v : Word) : Byte := v.extractLsb' 8 8

/-- `lo8(v) = v[7:0]` (R6). -/
def lo8 (v : Word) : Byte := v.extractLsb' 0 8

/-- `be16(hi, lo) = {hi, lo}` (R6). -/
def be16 (hi lo : Byte) : Word := hi ++ lo

/-- 0x03, read holding registers (R53). -/
def fcReadHolding : Byte := 0x03

/-- 0x04, read input registers (R53). -/
def fcReadInput : Byte := 0x04

/-- 0x06, write single register (R53). -/
def fcWriteSingle : Byte := 0x06

/-- 0x10, write multiple registers (R53). -/
def fcWriteMultiple : Byte := 0x10

/-- The error bit of a response's function code: bit 7 (R49, R90). -/
def isErrorFc (fc : Byte) : Bool := fc.getLsbD 7

/-- A 16-bit field as it stands in a frame: the more significant byte first (R31). -/
def fieldBytes (v : Word) : List Byte := [hi8 v, lo8 v]

/-- The body of `REQ_READ` and of `REQ_WR1` (R46, R47): slave id, function code and two 16-bit fields. -/
def twoFieldBody (slave fc : Byte) (addr arg : Word) : List Byte :=
  [slave, fc] ++ fieldBytes addr ++ fieldBytes arg

/-- The body of `REQ_WRM` (R48): `register_count = n` and `byte_count = 2n` for the `n` values that follow. -/
def writeMultipleBody (slave : Byte) (addr : Word) (vals : List Word) : List Byte :=
  [slave, fcWriteMultiple] ++ fieldBytes addr ++ fieldBytes (BitVec.ofNat 16 vals.length)
    ++ [BitVec.ofNat 8 (2 * vals.length)] ++ vals.flatMap fieldBytes

/-- The data window of a read response (R91): of the bytes after the byte count, the first `bc`, or all of them when
fewer were received. -/
def dataWindow (bc : Byte) (afterCount : List Byte) : List Byte := afterCount.take bc.toNat

/-- The registers of a data window (R91): big-endian 16-bit values, one per 2 bytes; a trailing odd byte is dropped. -/
def windowRegs : List Byte → List Word
  | hi :: lo :: rest => be16 hi lo :: windowRegs rest
  | _ => []

end Sys2Proof.Machine
end

