-- ==== Sys2Proof/Machine/Crc.lean ====
section
/-! DEFINITION. The pure functions of the CRC engine (spec/40_crc.md R65, R66, R70): `crc_bit`, `crc_byte`, `crc_acc`,
`crc16`. The builder, the parser and the three CRC commands all use them. -/

namespace Sys2Proof.Machine

/-- `CRC_INIT` (R4): the value every CRC computation starts from. -/
def crcInitValue : Word := 0xFFFF

/-- `CRC_POLY_R` (R4): the constant XORed in after a right shift that dropped a 1. -/
def crcPoly : Word := 0xA001

/-- `crc_bit` (R65): the low bit is tested before the shift, the XOR applied after it. -/
def crcBit (a : Word) : Word := if a.getLsbD 0 then (a >>> 1) ^^^ crcPoly else a >>> 1

/-- `crc_bit^8`: the 8 iterations for one byte (R66). -/
def crcBits8 (a : Word) : Word := crcBit (crcBit (crcBit (crcBit (crcBit (crcBit (crcBit (crcBit a)))))))

/-- `crc_byte` (R66): the byte is XORed into the low byte of the accumulator, then 8 iterations. -/
def crcByte (a : Word) (b : Byte) : Word := crcBits8 (a ^^^ b.setWidth 16)

/-- `crc_acc` (R70): the left fold of `crc_byte` over the bytes, from 0xFFFF. -/
def crcAcc (bytes : List Byte) : Word := bytes.foldl crcByte crcInitValue

/-- The accumulator as it stands on the wire: low byte first (R32, R69). -/
def crcWire (c : Word) : List Byte := [lo8 c, hi8 c]

/-- `crc16` (R70): the two bytes that end a frame. -/
def crc16 (bytes : List Byte) : List Byte := crcWire (crcAcc bytes)

/-- A frame: a body and the CRC16 of everything preceding it (R45, R80). -/
def frameOf (body : List Byte) : List Byte := body ++ crc16 body

/-- A frame without its last two bytes: what the trailing CRC is computed over (R88). -/
def bodyOf (r : List Byte) : List Byte := r.take (r.length - 2)

/-- The CRC test of the strict option (R88): the last two bytes are the CRC of the bytes before them. -/
def trailerOk (r : List Byte) : Bool := r.drop (r.length - 2) == crc16 (bodyOf r)

end Sys2Proof.Machine
end

