-- ==== Sys2Proof/Config.lean ====
section
/-! DEFINITION. The configuration of a block: the implementation parameters of spec/00_scope.md R4 that are the spec's
decisions, each a field with R4's default, and the option of R17. The parameters R4 calls the source's are no fields and
stand where they are used: the CRC constants in Machine/Crc.lean, the function codes in Machine/Operands.lean. -/

namespace Sys2Proof

/-- What is fixed for a run of the block and no command writes (R4, R17). -/
structure Config where
  /-- `STRICT_CRC` (R17): when set, `RX.END` verifies the trailing CRC. -/
  strictCrc : Bool := false
  /-- `MAX_WRITE_REGS` (D6): the largest number of values `REQ.WRM` accepts. -/
  maxWriteRegs : Nat := 127
  /-- `TX_MAX` (D9): bytes in `TXBUF`. -/
  txMax : Nat := 263
  /-- `RX_MAX` (D9): bytes in `RXBUF`. -/
  rxMax : Nat := 260
deriving DecidableEq, Repr

/-- The parameters fit each other: `byte_count = 2n` of the largest multiple write fits its one byte (R79, D6), and its
frame of `9 + 2n` bytes fits `TXBUF` (R4, R12). A block whose parameters do not is none of the spec's (log 13). -/
def Config.wf (c : Config) : Bool := 2 * c.maxWriteRegs ≤ 255 && 9 + 2 * c.maxWriteRegs ≤ c.txMax

/-- `MAX_READ_REGS` (R4): entries in `RREG`, `floor(255 / 2)` from the one-byte byte count; derived, so no field. -/
abbrev Config.maxReadRegs : Nat := 127

end Sys2Proof
end

