-- ==== Sys2Proof/Syntax.lean ====
section
/-! DEFINITION. What the host issues (commands by code and operands, and the RESET event), the command exceptions by
name, and `Instr`: one constructor for each of the 19 rows of spec/opcode_table.json. -/

namespace Sys2Proof

/-- One host command as it is presented to the block (spec/30_encoding.md R57): the 4-bit command code and the operand
values, each of the width R54 gives. A command reads only the operands R57 lists for it (log 5). -/
structure Command where
  /-- `CMD`, the command code; 0x0 and 0x9..0xF are reserved (R57). -/
  cmd : BitVec 4
  /-- operand `b` of `CRC.UPD` and `RX.PUSH` -/
  b : Byte := 0
  /-- operand `slave` of `REQ.BUILD` -/
  slave : Byte := 0
  /-- operand `fc` of `REQ.BUILD` -/
  fc : Byte := 0
  /-- operand `addr` of `REQ.BUILD` -/
  addr : Word := 0
  /-- operand `arg` of `REQ.BUILD`: the count of a read, the value of a single write -/
  arg : Word := 0
  /-- operand `vals` of `REQ.BUILD`: the values of a multiple write, `value_1` first -/
  vals : List Word := []
deriving DecidableEq, Repr

/-- What can happen to the block (R10): a command, or `RESET`, which is an event and not a command (R120). -/
inductive HostEvent where
  | command (c : Command)
  | reset
deriving DecidableEq, Repr

/-- The command exceptions (spec/60_exceptions.md R106). -/
inductive CmdException where
  /-- code 1 (R107): a reserved command code -/
  | illegalCommand
  /-- code 2 (R108): `REQ.BUILD` with a function code outside the four -/
  | illegalFunctionCode
  /-- code 3 (R109): a multiple write of more than `MAX_WRITE_REGS` values -/
  | badCount
  /-- code 4 (R110): `TX.POP` with no byte left -/
  | txEmpty
  /-- code 5 (R111): `RX.PUSH` into a full buffer -/
  | rxOverrun
deriving DecidableEq, Repr

/-- The instructions: one constructor per row of spec/opcode_table.json. A command's instruction carries the command's
operands; a response class carries the fields the table's row takes from `RXBUF` (log 6). -/
inductive Instr where
  /-- `CRC.INIT` (R67) -/
  | crcInit
  /-- `CRC.UPD b` (R68) -/
  | crcUpd (b : Byte)
  /-- `CRC.EMIT` (R69) -/
  | crcEmit
  /-- `REQ.RDH slave, addr, count` (R76) -/
  | reqRdh (slave : Byte) (addr count : Word)
  /-- `REQ.RDI slave, addr, count` (R77) -/
  | reqRdi (slave : Byte) (addr count : Word)
  /-- `REQ.WR1 slave, addr, value` (R78) -/
  | reqWr1 (slave : Byte) (addr value : Word)
  /-- `REQ.WRM slave, addr, vals` (R79) -/
  | reqWrm (slave : Byte) (addr : Word) (vals : List Word)
  /-- `TX.POP` (R100) -/
  | txPop
  /-- `RX.PUSH b` (R101) -/
  | rxPush (b : Byte)
  /-- `RX.FLUSH` (R102) -/
  | rxFlush
  /-- `RSP.NONE` (R86): `RX.END` on an empty response -/
  | rspNone
  /-- `RSP.SHORT` (R87): `RX.END` on 1 to 4 bytes -/
  | rspShort
  /-- `RSP.BADCRC` (R88): `RX.END`, strict, on a trailer that is not the CRC -/
  | rspBadCrc
  /-- `RSP.ERR` (R90): an error response, with its slave id, function code and exception code -/
  | rspErr (slave fc code : Byte)
  /-- `RSP.RDH` (R91): a response to a holding-register read, with its slave id, byte count and data window -/
  | rspRdh (slave bc : Byte) (window : List Byte)
  /-- `RSP.RDI` (R92): a response to an input-register read, with its slave id, byte count and data window -/
  | rspRdi (slave bc : Byte) (window : List Byte)
  /-- `RSP.WR1` (R93): the acknowledgement of a single write -/
  | rspWr1 (slave : Byte)
  /-- `RSP.WRM` (R94): the acknowledgement of a multiple write -/
  | rspWrm (slave : Byte)
  /-- `RSP.RAW` (R95): any other response, with its slave id and function code -/
  | rspRaw (slave fc : Byte)
deriving DecidableEq, Repr

end Sys2Proof
end

