-- ==== Sys2Proof/Machine/State.lean ====
section
/-! DEFINITION. The state of the machine: the block's registers and buffers (spec/10_state.md section 2), its
configuration, and the model's own record of what the host issues and is told; its reset; the reasons a step may stop. -/

namespace Sys2Proof.Machine

/-- `RES.KIND` (R14): the eight codes of the 3-bit field, by name. -/
inductive ResultKind where
  | none
  | noResponse
  | shortFrame
  | badCrc
  | protocolError
  | readOk
  | writeOk
  | raw
deriving DecidableEq, Repr

/-- The result record `RES` (R14), but for `RES.NREG`, which is the length of `RREG` as the model holds it. -/
structure ResultRecord where
  kind : ResultKind := .none
  slave : Byte := 0
  fc : Byte := 0
  code : Byte := 0
  exknown : Bool := false
  bc : Byte := 0
deriving DecidableEq, Repr

/-- The block's state (R10 to R22). The three buffers are the sequences of their valid elements (R12, R13, R15;
spec/93_implementation_defined.md V1; log 3). -/
structure Block where
  /-- `CRC` (R11) -/
  crc : Word
  /-- `TXBUF[0..TXLEN)` (R12) -/
  txbuf : List Byte
  /-- `TXPTR` (R12) -/
  txptr : Nat
  /-- `RXBUF[0..RXLEN)` (R13) -/
  rxbuf : List Byte
  /-- `RES` (R14) -/
  res : ResultRecord
  /-- `RREG[0..RES.NREG)` (R15) -/
  rreg : List Word
  /-- `EXC` (R16): the exception code of the last command -/
  exc : BitVec 3
  /-- `FLT` (R16): the sticky record of the exceptions raised since reset -/
  flt : BitVec 6
deriving DecidableEq, Repr

/-- `TXLEN` (R12). -/
abbrev Block.txLen (b : Block) : Nat := b.txbuf.length

/-- `RXLEN` (R13). -/
abbrev Block.rxLen (b : Block) : Nat := b.rxbuf.length

/-- `RES.NREG` (R14). -/
abbrev Block.nreg (b : Block) : Nat := b.rreg.length

/-- The state after `RESET` (R21). -/
def Block.reset : Block :=
  { crc := 0xFFFF, txbuf := [], txptr := 0, rxbuf := [], res := {}, rreg := [], exc := 0, flt := 0 }

/-- The value a command returns (R7): nothing but for `TX.POP` (one byte, R100) and `CRC.EMIT` (`lo`, `hi`, R69). -/
inductive Returned where
  | nothing
  | byte (b : Byte)
  | pair (lo hi : Byte)
deriving DecidableEq, Repr

/-- What the host is told with a command's completion (R7, R105): the exception code and the value returned. -/
structure Completion where
  exc : BitVec 3
  value : Returned
deriving DecidableEq, Repr

/-- The machine's state. -/
structure State where
  /-- the block's own state -/
  blk : Block
  /-- the static configuration (R17); no step changes it -/
  cfg : Config
  /-- the events the host issues, the next one first (R10; log 1) -/
  host : List HostEvent
  /-- the completions of the commands so far, the oldest first (R105, R128; log 2) -/
  done : List Completion
deriving DecidableEq, Repr

/-- The machine right after reset (R21), with the default configuration (R4, R17), no event issued, none completed. -/
def State.reset : State := { blk := Block.reset, cfg := {}, host := [], done := [] }

/-- Why the machine stops with a fault: it never does. "every state is one from which every command has a defined
outcome", "the block is never stuck" (spec/70_reset_and_hazards.md R128); what the block refuses is a command exception,
a next state (R105). So the type has no constructor. Safe (log 11). -/
inductive Fault where
deriving DecidableEq, Repr

/-- Why a step is refused. -/
inductive Refusal where
  /-- Raised by an arm of `exec` whose instruction has no meaning yet; no arm is such. Safe: a run ends there. -/
  | notModelled (mnemonic : String)
deriving DecidableEq, Repr

end Sys2Proof.Machine
end

