-- ==== Sys2Proof/Machine/Flags.lean ====
section
/-! DEFINITION. The status bits (spec/10_state.md R14, R16, R19): exception codes, the sticky record, `EXKNOWN` and the
kinds of R60, the codes of `RES.KIND`, and `TXAVAIL`. -/

namespace Sys2Proof

/-- The code of a command exception (spec/60_exceptions.md R106). -/
def CmdException.code : CmdException → BitVec 3
  | .illegalCommand => 1
  | .illegalFunctionCode => 2
  | .badCount => 3
  | .txEmpty => 4
  | .rxOverrun => 5

/-- The bit of `FLT` a command exception sets: bit `k` for code `k` (R16). -/
def CmdException.fltBit (k : CmdException) : BitVec 6 := 1#6 <<< k.code.toNat

namespace Machine

/-- The 3-bit encoding of `RES.KIND` (R14). -/
def ResultKind.code : ResultKind → BitVec 3
  | .none => 0
  | .noResponse => 1
  | .shortFrame => 2
  | .badCrc => 3
  | .protocolError => 4
  | .readOk => 5
  | .writeOk => 6
  | .raw => 7

/-- The kinds of a device-reported exception (spec/00_scope.md R8, spec/30_encoding.md R60). -/
inductive ExceptionKind where
  | illegalFunction
  | illegalDataAddress
  | illegalDataValue
  | slaveDeviceFailure
  | acknowledge
  | slaveDeviceBusy
  | memoryParityError
  | unknownError (code : Byte)
deriving DecidableEq, Repr

/-- The exception-code map of R60. -/
def exceptionKind (code : Byte) : ExceptionKind :=
  if code = 1 then .illegalFunction
  else if code = 2 then .illegalDataAddress
  else if code = 3 then .illegalDataValue
  else if code = 4 then .slaveDeviceFailure
  else if code = 5 then .acknowledge
  else if code = 6 then .slaveDeviceBusy
  else if code = 8 then .memoryParityError
  else .unknownError code

/-- `RES.EXKNOWN` (R90): the code is one the map names. -/
def exKnown (code : Byte) : Bool :=
  code == 1 || code == 2 || code == 3 || code == 4 || code == 5 || code == 6 || code == 8

/-- `TXAVAIL = TXLEN - TXPTR` (R19). -/
def Block.txAvail (b : Block) : Nat := b.txLen - b.txptr

end Machine

end Sys2Proof
end

