-- ==== Sys2Proof/Machine/Ops.lean ====
section
/-! DEFINITION. The operations the instructions share: completing a command and raising a command exception
(spec/60_exceptions.md R105), buffer accesses (spec/20_memory.md R30, R37), loading a built frame (R80), writing a
result (R85), the RESET event (R120), and taking the host's next event (R10). -/

namespace Sys2Proof.Machine

/-- A machine step's outcome. -/
abbrev StepResult := Host.Outcome State Fault Refusal

/-- A command completes (R105): its rule's block state is written, `EXC <- 0`, and the host is handed the value. -/
def complete (b : Block) (v : Returned) (s : State) : State :=
  { s with blk := { b with exc := 0 }, done := s.done ++ [{ exc := 0, value := v }] }

/-- A command raises the exception `k` (R105): `EXC <- k`, `FLT[k] <- 1`, no other state is written, no value is
returned, and the host is told the code. There is no handler, no saved state and no return (R114, R115). -/
def raise (k : CmdException) (s : State) : State :=
  { s with
    blk := { s.blk with exc := k.code, flt := s.blk.flt ||| k.fltBit }
    done := s.done ++ [{ exc := k.code, value := .nothing }] }

/-- `MemRead(space, i, 1)` (R7): the element at index `i`, if `i` is a valid index (R30). -/
def memRead (buf : List Byte) (i : Nat) : Option Byte := buf[i]?

/-- `MemWrite(RXBUF, RXLEN, 1, b); RXLEN <- RXLEN + 1` (R101): the one byte write of the block, at the end of the
sequence. -/
def memAppend (buf : List Byte) (b : Byte) : List Byte := buf ++ [b]

/-- The sequences fit the buffers of R30: `TXBUF`, `RXBUF` and `RREG`, of the sizes of the configuration. -/
def Memory.wf (s : State) : Bool :=
  s.blk.txLen ≤ s.cfg.txMax && s.blk.rxLen ≤ s.cfg.rxMax && s.blk.nreg ≤ Config.maxReadRegs

/-- The common effect of a successful build (R80): the frame of `body` in `TXBUF`, `TXPTR <- 0`, `CRC` the CRC of
`body`. -/
def loadFrame (body : List Byte) (s : State) : State :=
  complete { s.blk with txbuf := frameOf body, txptr := 0, crc := crcAcc body } .nothing s

/-- The accumulator after an `RX.END` that reached the CRC test (R88): the CRC of all but the last two bytes when
`STRICT_CRC = 1` and `RXLEN >= 5`; else unchanged. -/
def crcAfterTest (s : State) : Word :=
  if s.cfg.strictCrc = true ∧ 5 ≤ s.blk.rxLen then crcAcc (bodyOf s.blk.rxbuf) else s.blk.crc

/-- `RX.END` writes all of `RES` and `RREG[0..RES.NREG)`, and `CRC` (R85). -/
def writeResult (res : ResultRecord) (regs : List Word) (crc : Word) (s : State) : State :=
  complete { s.blk with res := res, rreg := regs, crc := crc } .nothing s

/-- A read response (R91, R92): the registers of the data window; the two read functions differ in `RES.FC` only. -/
def writeReadResult (slave fc bc : Byte) (window : List Byte) (s : State) : State :=
  writeResult { kind := .readOk, slave := slave, fc := fc, bc := bc } (windowRegs window) (crcAfterTest s) s

/-- The `RESET` event (R120): every element of the block's state takes its reset value; the configuration, `STRICT_CRC` in
it, is unchanged. -/
def resetEvent (s : State) : State := { s with blk := Block.reset }

/-- The host's next event is taken; `rest` is what it issues after it. -/
def State.withHost (rest : List HostEvent) (s : State) : State := { s with host := rest }

end Sys2Proof.Machine
end

