-- ==== Sys2Proof/Machine/CrcEngine.lean ====
section
/-! DEFINITION. The CRC commands (spec/40_crc.md section 2). -/

namespace Sys2Proof.Machine

/-- `CRC.INIT` (R67): `CRC <- 0xFFFF`. -/
def execCrcInit (s : State) : StepResult := .next (complete { s.blk with crc := crcInitValue } .nothing s)

/-- `CRC.UPD b` (R68): `CRC <- crc_byte(CRC, b)`, whatever wrote `CRC` last. -/
def execCrcUpd (b : Byte) (s : State) : StepResult :=
  .next (complete { s.blk with crc := crcByte s.blk.crc b } .nothing s)

/-- `CRC.EMIT` (R69): returns `CRC[7:0]` and `CRC[15:8]`; `CRC` is not changed. -/
def execCrcEmit (s : State) : StepResult := .next (complete s.blk (.pair (lo8 s.blk.crc) (hi8 s.blk.crc)) s)

end Sys2Proof.Machine
end

