-- ==== Sys2Proof/Machine/Request.lean ====
section
/-! DEFINITION. The four request instructions of `REQ.BUILD` (spec/41_request_build.md). No operand is validated (R81)
but the number of values of a multiple write (R79). -/

namespace Sys2Proof.Machine

/-- `REQ.RDH` (R76). -/
def execReqRdh (slave : Byte) (addr count : Word) (s : State) : StepResult :=
  .next (loadFrame (twoFieldBody slave fcReadHolding addr count) s)

/-- `REQ.RDI` (R77). -/
def execReqRdi (slave : Byte) (addr count : Word) (s : State) : StepResult :=
  .next (loadFrame (twoFieldBody slave fcReadInput addr count) s)

/-- `REQ.WR1` (R78). -/
def execReqWr1 (slave : Byte) (addr value : Word) (s : State) : StepResult :=
  .next (loadFrame (twoFieldBody slave fcWriteSingle addr value) s)

/-- `REQ.WRM` (R79): `BadCount` for more than `MAX_WRITE_REGS` values, else the frame. -/
def execReqWrm (slave : Byte) (addr : Word) (vals : List Word) (s : State) : StepResult :=
  if s.cfg.maxWriteRegs < vals.length then .next (raise .badCount s)
  else .next (loadFrame (writeMultipleBody slave addr vals) s)

end Sys2Proof.Machine
end

