-- ==== Sys2Proof/Machine/Response.lean ====
section
/-! DEFINITION. The nine response classes of `RX.END` (spec/42_response_parse.md): what each writes to `RES`, `RREG` and,
under the strict option, `CRC`. Which class a response is, and its fields, is the decoder's (R85, R89). -/

namespace Sys2Proof.Machine

/-- `RSP.NONE` (R86): `CRC` untouched even when strict. -/
def execRspNone (s : State) : StepResult := .next (writeResult { kind := .noResponse } [] s.blk.crc s)

/-- `RSP.SHORT` (R87): `CRC` untouched even when strict. -/
def execRspShort (s : State) : StepResult := .next (writeResult { kind := .shortFrame } [] s.blk.crc s)

/-- `RSP.BADCRC` (R88). -/
def execRspBadCrc (s : State) : StepResult := .next (writeResult { kind := .badCrc } [] (crcAfterTest s) s)

/-- `RSP.ERR` (R90). -/
def execRspErr (slave fc code : Byte) (s : State) : StepResult :=
  .next (writeResult { kind := .protocolError, slave := slave, fc := fc, code := code, exknown := exKnown code } []
    (crcAfterTest s) s)

/-- `RSP.RDH` (R91). -/
def execRspRdh (slave bc : Byte) (window : List Byte) (s : State) : StepResult :=
  .next (writeReadResult slave fcReadHolding bc window s)

/-- `RSP.RDI` (R92). -/
def execRspRdi (slave bc : Byte) (window : List Byte) (s : State) : StepResult :=
  .next (writeReadResult slave fcReadInput bc window s)

/-- `RSP.WR1` (R93). -/
def execRspWr1 (slave : Byte) (s : State) : StepResult :=
  .next (writeResult { kind := .writeOk, slave := slave, fc := fcWriteSingle } [] (crcAfterTest s) s)

/-- `RSP.WRM` (R94). -/
def execRspWrm (slave : Byte) (s : State) : StepResult :=
  .next (writeResult { kind := .writeOk, slave := slave, fc := fcWriteMultiple } [] (crcAfterTest s) s)

/-- `RSP.RAW` (R95). -/
def execRspRaw (slave fc : Byte) (s : State) : StepResult :=
  .next (writeResult { kind := .raw, slave := slave, fc := fc } [] (crcAfterTest s) s)

end Sys2Proof.Machine
end

