-- ==== Sys2Proof/Machine/Stream.lean ====
section
/-! DEFINITION. The buffer access commands (spec/43_stream_ports.md). -/

namespace Sys2Proof.Machine

/-- `TX.POP` (R100): the byte at `TXPTR`, and `TXPTR <- TXPTR + 1`; `TxEmpty` when no byte is left (log 7). -/
def execTxPop (s : State) : StepResult :=
  match memRead s.blk.txbuf s.blk.txptr with
  | none => .next (raise .txEmpty s)
  | some b => .next (complete { s.blk with txptr := s.blk.txptr + 1 } (.byte b) s)

/-- `RX.PUSH b` (R101): appends the byte to the response; `RxOverrun`, the byte discarded, when the buffer is full
(log 7). -/
def execRxPush (b : Byte) (s : State) : StepResult :=
  if s.cfg.rxMax ≤ s.blk.rxLen then .next (raise .rxOverrun s)
  else .next (complete { s.blk with rxbuf := memAppend s.blk.rxbuf b } .nothing s)

/-- `RX.FLUSH` (R102): `RXLEN <- 0`. -/
def execRxFlush (s : State) : StepResult := .next (complete { s.blk with rxbuf := [] } .nothing s)

end Sys2Proof.Machine
end

