-- ==== Sys2Proof/Machine/Dispatch.lean ====
section
/-! DEFINITION. One arm per instruction: the meaning it has. -/

namespace Sys2Proof.Machine

def exec (i : Instr) (s : State) : Host.Outcome State Fault Refusal :=
  match i with
  | .crcInit => Sys2Proof.Machine.execCrcInit s
  | .crcUpd b => Sys2Proof.Machine.execCrcUpd b s
  | .crcEmit => Sys2Proof.Machine.execCrcEmit s
  | .reqRdh slave addr count => Sys2Proof.Machine.execReqRdh slave addr count s
  | .reqRdi slave addr count => Sys2Proof.Machine.execReqRdi slave addr count s
  | .reqWr1 slave addr value => Sys2Proof.Machine.execReqWr1 slave addr value s
  | .reqWrm slave addr vals => Sys2Proof.Machine.execReqWrm slave addr vals s
  | .txPop => Sys2Proof.Machine.execTxPop s
  | .rxPush b => Sys2Proof.Machine.execRxPush b s
  | .rxFlush => Sys2Proof.Machine.execRxFlush s
  | .rspNone => Sys2Proof.Machine.execRspNone s
  | .rspShort => Sys2Proof.Machine.execRspShort s
  | .rspBadCrc => Sys2Proof.Machine.execRspBadCrc s
  | .rspErr slave fc code => Sys2Proof.Machine.execRspErr slave fc code s
  | .rspRdh slave bc window => Sys2Proof.Machine.execRspRdh slave bc window s
  | .rspRdi slave bc window => Sys2Proof.Machine.execRspRdi slave bc window s
  | .rspWr1 slave => Sys2Proof.Machine.execRspWr1 slave s
  | .rspWrm slave => Sys2Proof.Machine.execRspWrm slave s
  | .rspRaw slave fc => Sys2Proof.Machine.execRspRaw slave fc s

end Sys2Proof.Machine
end

