-- ==== Sys2Proof/WellFormed.lean ====
section
/-! DEFINITION. Which terms of `Instr` are instructions: the field conditions under which opcode_table.json's response
rows are selected (spec/30_encoding.md R53, spec/42_response_parse.md R85, R91). A term that meets none is no row. -/

namespace Sys2Proof

/-- A data window `RX.END` can see for the byte count `bc` (R91, `W = min(B, L - 3)` with `L >= 5`): all `bc` bytes, or,
in a truncated response, fewer of them but at least two. -/
def windowWf (bc : Byte) (window : List Byte) : Bool :=
  window.length == bc.toNat || (2 ≤ window.length && window.length < bc.toNat)

/-- A function code of no row of R53's response table but the last: bit 7 clear and none of the four. -/
def isRawFc (fc : Byte) : Bool :=
  !Machine.isErrorFc fc && fc != Machine.fcReadHolding && fc != Machine.fcReadInput
    && fc != Machine.fcWriteSingle && fc != Machine.fcWriteMultiple

/-- The field conditions of each row. A request takes every operand value (R81); a multiple write of too many
values is an instruction too, one that raises `BadCount` (R79). -/
def Instr.wf : Instr → Bool
  | .crcInit | .crcUpd _ | .crcEmit => true
  | .reqRdh .. | .reqRdi .. | .reqWr1 .. | .reqWrm .. => true
  | .txPop | .rxPush _ | .rxFlush => true
  | .rspNone | .rspShort | .rspBadCrc => true
  | .rspErr _ fc _ => Machine.isErrorFc fc
  | .rspRdh _ bc window => windowWf bc window
  | .rspRdi _ bc window => windowWf bc window
  | .rspWr1 _ | .rspWrm _ => true
  | .rspRaw _ fc => isRawFc fc

end Sys2Proof
end

