-- ==== Sys2Proof/Decode.lean ====
section
/-! DEFINITION. The decoder: a command, and for `RX.END` the received bytes and `STRICT_CRC`, to the instruction that
spec/30_encoding.md R57 selects, or to the command exception that rejects it; then the encoder; then opcode-table words
as numbers. -/

namespace Sys2Proof

open Machine

/-- The instruction of a response of `L >= 5` bytes whose CRC test passed or was skipped (spec/42_response_parse.md S3
to S8): by the function code, with the fields of R89 to R95. `b2` is `r[2]`, `afterCount` is `r[3..L)`. -/
def decodeClass (slave fc b2 : Byte) (afterCount : List Byte) : Instr :=
  if isErrorFc fc then .rspErr slave fc b2
  else if fc = fcReadHolding then .rspRdh slave b2 (dataWindow b2 afterCount)
  else if fc = fcReadInput then .rspRdi slave b2 (dataWindow b2 afterCount)
  else if fc = fcWriteSingle then .rspWr1 slave
  else if fc = fcWriteMultiple then .rspWrm slave
  else .rspRaw slave fc

/-- The instruction `RX.END` is for the received bytes `r` (R85): the tests S0 to S8 in their order. -/
def decodeResponse (strict : Bool) (r : List Byte) : Instr :=
  match r with
  | [] => .rspNone
  | slave :: fc :: b2 :: d0 :: d1 :: rest =>
    if strict && !trailerOk r then .rspBadCrc else decodeClass slave fc b2 (d0 :: d1 :: rest)
  | _ => .rspShort

/-- The instruction `REQ.BUILD` is (spec/41_request_build.md R75): by `fc`, before any other operand is looked at. -/
def decodeRequest (c : Command) : Except CmdException Instr :=
  if c.fc = fcReadHolding then .ok (.reqRdh c.slave c.addr c.arg)
  else if c.fc = fcReadInput then .ok (.reqRdi c.slave c.addr c.arg)
  else if c.fc = fcWriteSingle then .ok (.reqWr1 c.slave c.addr c.arg)
  else if c.fc = fcWriteMultiple then .ok (.reqWrm c.slave c.addr c.vals)
  else .error .illegalFunctionCode

/-- The decoder (R57): by the command code; a reserved code is rejected before any operand is looked at (R112).
`strict` and `r` are `STRICT_CRC` and `RXBUF[0..RXLEN)`, which only `RX.END` reads. -/
def decode (c : Command) (strict : Bool) (r : List Byte) : Except CmdException Instr :=
  if c.cmd = 0x1 then .ok .crcInit
  else if c.cmd = 0x2 then .ok (.crcUpd c.b)
  else if c.cmd = 0x3 then .ok .crcEmit
  else if c.cmd = 0x4 then decodeRequest c
  else if c.cmd = 0x5 then .ok .txPop
  else if c.cmd = 0x6 then .ok (.rxPush c.b)
  else if c.cmd = 0x7 then .ok .rxFlush
  else if c.cmd = 0x8 then .ok (decodeResponse strict r)
  else .error .illegalCommand

/-! The encoder. -/

/-- What the decoder looks at: the command, `STRICT_CRC`, and the received bytes (the last two only for `RX.END`). -/
structure Encoded where
  command : Command
  strict : Bool := false
  resp : List Byte := []
deriving DecidableEq, Repr

/-- The command `RX.END` (R57) on the received bytes `r`. -/
def encodeResponse (r : List Byte) (strict : Bool := false) : Encoded :=
  { command := { cmd := 0x8 }, strict := strict, resp := r }

/-- A read response (R50): the length-consistent frame when the window holds all `bc` bytes, else the truncated
response that ends with the window. -/
def encodeRead (slave fc bc : Byte) (window : List Byte) : List Byte :=
  let received := [slave, fc, bc] ++ window
  if window.length = bc.toNat then frameOf received else received

/-- The encoder: the command of an instruction with its operands (R57, R58), or `RX.END` with the shortest response of
its class (R49 to R52); bytes the class does not examine are 0 and the trailer is the CRC (log 9). -/
def encode : Instr → Encoded
  | .crcInit => { command := { cmd := 0x1 } }
  | .crcUpd b => { command := { cmd := 0x2, b := b } }
  | .crcEmit => { command := { cmd := 0x3 } }
  | .reqRdh slave addr count => { command := { cmd := 0x4, slave, fc := fcReadHolding, addr, arg := count } }
  | .reqRdi slave addr count => { command := { cmd := 0x4, slave, fc := fcReadInput, addr, arg := count } }
  | .reqWr1 slave addr value => { command := { cmd := 0x4, slave, fc := fcWriteSingle, addr, arg := value } }
  | .reqWrm slave addr vals => { command := { cmd := 0x4, slave, fc := fcWriteMultiple, addr, vals } }
  | .txPop => { command := { cmd := 0x5 } }
  | .rxPush b => { command := { cmd := 0x6, b := b } }
  | .rxFlush => { command := { cmd := 0x7 } }
  | .rspNone => encodeResponse []
  | .rspShort => encodeResponse [0]
  | .rspBadCrc => encodeResponse [0, 0, 0, 0, 0] (strict := true)
  | .rspErr slave fc code => encodeResponse (frameOf [slave, fc, code])
  | .rspRdh slave bc window => encodeResponse (encodeRead slave fcReadHolding bc window)
  | .rspRdi slave bc window => encodeResponse (encodeRead slave fcReadInput bc window)
  | .rspWr1 slave => encodeResponse (frameOf [slave, fcWriteSingle, 0])
  | .rspWrm slave => encodeResponse (frameOf [slave, fcWriteMultiple, 0])
  | .rspRaw slave fc => encodeResponse (frameOf [slave, fc, 0])

/-! The opcode table's words: the 12-bit selector `SEL = {CMD[3:0], FCB[7:0]}` of R57 as a number. -/

/-- The command a selector names, its other operands 0: `FCB` is the operand `fc` of `REQ.BUILD`. -/
def tableCommand (w : Nat) : Command := { cmd := BitVec.ofNat 4 (w / 256), fc := BitVec.ofNat 8 w }

/-- Whether a selector's command is `RX.END`, whose `FCB` is `RXBUF[1]`. -/
def tableReadsResponse (w : Nat) : Bool := (tableCommand w).cmd == 0x8

/-- The received bytes a selector of `RX.END` stands for (log 8): with `FCB = 0` the empty response, for which R57
ignores `FCB` and the first row in priority matches; else the shortest response with that function code, its other
bytes 0 and its trailer the CRC, so that it is classified alike under both values of `STRICT_CRC`. -/
def tableResponse (w : Nat) : List Byte :=
  let fcb := (tableCommand w).fc
  if fcb = 0 then [] else frameOf [0, fcb, 0]

/-- The instruction the decoder reads from an opcode-table word of `nbits` bits (log 8); none for a rejected selector
and for a number with a bit set above the selector's twelve. -/
def decodeTableWord (nbits w : Nat) : Option Instr :=
  let sel := w % 2 ^ nbits
  if sel < 4096 then (decode (tableCommand sel) false (tableResponse sel)).toOption else none

end Sys2Proof
end

