-- ==== Sys2Proof/Machine/Fetch.lean ====
section
/-! DEFINITION. How the block takes what the host issues (spec/10_state.md R10): decoding a command in the current state,
and placing an opcode-table word as the host's next command (log 8). -/

namespace Sys2Proof.Machine

/-- The decoder on a command in a state: `RX.END` reads `STRICT_CRC` and `RXBUF[0..RXLEN)` (R57, R85). -/
def decodeIn (c : Command) (s : State) : Except CmdException Instr := decode c s.cfg.strictCrc s.blk.rxbuf

/-- The host's next command is the selector `w` (log 8): it stands before what the host would issue, and for `RX.END`
the receive buffer holds the response the selector's `FCB` stands for. -/
def placeTableWord (w : Nat) (s : State) : State :=
  { s with
    host := .command (tableCommand w) :: s.host
    blk := if tableReadsResponse w then { s.blk with rxbuf := tableResponse w } else s.blk }

end Sys2Proof.Machine
end

