-- ==== Sys2Proof/Machine/Step.lean ====
section
/-! DEFINITION. One step of the machine (spec/10_state.md R10): the host's next event, a command or RESET, taken whole. -/

namespace Sys2Proof.Machine

/-- One step. With no event issued the state does not change (R10; log 12). `RESET` happens between commands (R120). A
command is decoded and executed in one step; a command the decoder rejects raises its exception (R107, R108, R112). -/
def step (s : State) : Host.Outcome State Fault Refusal :=
  match s.host with
  | [] => .next s
  | .reset :: rest => .next (resetEvent (s.withHost rest))
  | .command c :: rest =>
    match decodeIn c s with
    | .ok i => exec i (s.withHost rest)
    | .error k => .next (raise k (s.withHost rest))

/-- `s` with the opcode-table word `w` of `nbits` bits as the very next command the block runs (log 8). -/
def State.withFetchWord (s : State) (nbits w : Nat) : State := placeTableWord (w % 2 ^ nbits) s

end Sys2Proof.Machine
end

