-- ==== Sys2Proof/Machine/Parse.lean ====
section
/-! DEFINITION. `parse_response` as spec/42_response_parse.md R97 gives it: one function of the received bytes and
`STRICT_CRC`, by frame index. The step reaches the same result through the decoder and the class meanings; that the two
agree is a statement. Also the result as a caller reads it (spec/00_scope.md R8). -/

namespace Sys2Proof.Machine

/-- What `parse_response` returns (R97). -/
structure Parsed where
  kind : ResultKind
  slave : Byte := 0
  fc : Byte := 0
  code : Byte := 0
  exknown : Bool := false
  bc : Byte := 0
  regs : List Word := []
deriving DecidableEq, Repr

/-- `r[i]`, read only below the length: every index used is guarded by a length test (R37). -/
def byteAt (r : List Byte) (i : Nat) : Byte := r.getD i 0

/-- `N = min(B, L - 3) div 2`: the registers of a read response (R91). -/
def regCount (r : List Byte) : Nat := min (byteAt r 2).toNat (r.length - 3) / 2

/-- `RREG[i] = be16(r[3 + 2i], r[4 + 2i])` for `0 <= i < N` (R91). -/
def parseRegs (r : List Byte) : List Word :=
  (List.range (regCount r)).map fun k => be16 (byteAt r (3 + 2 * k)) (byteAt r (4 + 2 * k))

/-- `parse_response` (R97): the tests S0 to S8 of R85, and the fields of R86 to R95. -/
def parseResponse (r : List Byte) (strict : Bool) : Parsed :=
  let L := r.length
  let slave := byteAt r 0
  let fc := byteAt r 1
  if L = 0 then { kind := .noResponse }
  else if L < 5 then { kind := .shortFrame }
  else if strict = true ∧ [byteAt r (L - 2), byteAt r (L - 1)] ≠ crc16 (r.take (L - 2)) then { kind := .badCrc }
  else if 0x80 ≤ fc.toNat then
    { kind := .protocolError, slave, fc, code := byteAt r 2, exknown := decide (byteAt r 2 ∈ [1, 2, 3, 4, 5, 6, 8]) }
  else if fc = 0x03 ∨ fc = 0x04 then { kind := .readOk, slave, fc, bc := byteAt r 2, regs := parseRegs r }
  else if fc = 0x06 ∨ fc = 0x10 then { kind := .writeOk, slave, fc }
  else { kind := .raw, slave, fc }

/-- A result as a caller branches on it (R8). -/
inductive ParseResult where
  | noResponse
  | shortFrame
  | badCrc
  | protocolError (kind : ExceptionKind)
  | readOk (regs : List Word)
  | writeOk
  | raw
deriving DecidableEq, Repr

/-- The result the host reads out of `RES` and `RREG` (R14, R36, R60); none before the first `RX.END` (R121). -/
def Block.parseResult (b : Block) : Option ParseResult :=
  match b.res.kind with
  | .none => none
  | .noResponse => some .noResponse
  | .shortFrame => some .shortFrame
  | .badCrc => some .badCrc
  | .protocolError => some (.protocolError (exceptionKind b.res.code))
  | .readOk => some (.readOk b.rreg)
  | .writeOk => some .writeOk
  | .raw => some .raw

end Sys2Proof.Machine
end

