-- ==== Sys2Proof/Machine/Pseudo.lean ====
section
/-! DEFINITION. The pseudo-commands of spec/30_encoding.md R59, each an abbreviation for a sequence of commands. -/

namespace Sys2Proof.Machine

/-- The command of an instruction, as the host issues it. -/
def issue (i : Instr) : HostEvent := .command (encode i).command

/-- The command `RX.END`, whichever class it turns out to be (R57, R85). -/
def issueRxEnd : HostEvent := .command { cmd := 0x8 }

/-- `CRC16 b1 ... bk` (R59). -/
def pseudoCrc16 (bytes : List Byte) : List HostEvent :=
  [issue .crcInit] ++ bytes.map (fun b => issue (.crcUpd b)) ++ [issue .crcEmit]

/-- `TX.DRAIN` of `m` bytes (R59). -/
def pseudoTxDrain (m : Nat) : List HostEvent := List.replicate m (issue .txPop)

/-- `RX.FRAME b1 ... bk` (R59). -/
def pseudoRxFrame (bytes : List Byte) : List HostEvent :=
  [issue .rxFlush] ++ bytes.map (fun b => issue (.rxPush b)) ++ [issueRxEnd]

end Sys2Proof.Machine
end

