-- ==== Sys2Proof/Safety.lean ====
section
/-! DEFINITION. The terms claims are stated in: the invariant of spec/10_state.md R22 and R14, a run without a refused
command (spec/60_exceptions.md R105), and what it is for an instruction or a command to complete or to raise. -/

namespace Sys2Proof.Machine

/-- The fields of `RES` that have no meaning for a kind are 0 (R14). -/
def ResultRecord.fieldsWf (r : ResultRecord) : Prop :=
  (r.kind = .protocolError ∨ r.kind = .readOk ∨ r.kind = .writeOk ∨ r.kind = .raw ∨ (r.slave = 0 ∧ r.fc = 0))
    ∧ (r.kind = .protocolError ∨ (r.code = 0 ∧ r.exknown = false))
    ∧ (r.kind = .readOk ∨ r.bc = 0)

/-- The invariants of every reachable state of a block with the configuration `cfg` (R22), with R14's zero fields. -/
structure Block.Inv (cfg : Config) (b : Block) : Prop where
  txptr_le : b.txptr ≤ b.txLen
  txLen_le : b.txLen ≤ cfg.txMax
  txLen_form : b.txLen = 0 ∨ b.txLen = 8 ∨ ∃ n, n ≤ cfg.maxWriteRegs ∧ b.txLen = 9 + 2 * n
  tx_is_frame : 0 < b.txLen → ∃ body, b.txbuf = body ++ crc16 body
  rxLen_le : b.rxLen ≤ cfg.rxMax
  nreg_le : b.nreg ≤ 127
  nreg_zero : b.res.kind ≠ .readOk → b.nreg = 0
  nreg_read : b.res.kind = .readOk → ∃ L, 5 ≤ L ∧ L ≤ cfg.rxMax ∧ b.nreg = min b.res.bc.toNat (L - 3) / 2
  res_fields : b.res.fieldsWf
  flt_zero : b.flt.getLsbD 0 = false
  exc_le : b.exc.toNat ≤ 5

/-- The machine's invariant: parameters that fit each other, and the block's invariants under them. -/
structure State.Inv (s : State) : Prop where
  cfg_wf : s.cfg.wf = true
  blk_inv : s.blk.Inv s.cfg

/-- No command has been refused since reset: `FLT = 0` (R105). -/
def State.CleanRun (s : State) : Prop := s.blk.flt = 0

/-- Executing `i` in `s` completes: the next state has the block state `b` with `EXC = 0`, the host is told code 0 and
handed `v` (R105), and nothing else changes. -/
def Completes (i : Instr) (s : State) (b : Block) (v : Returned) : Prop :=
  exec i s = .next { s with blk := { b with exc := 0 }, done := s.done ++ [{ exc := 0, value := v }] }

/-- Executing `i` in `s` raises the exception with code `k` (R105): only `EXC` and bit `k` of `FLT` are written, no value
is returned, the host is told the code, and nothing else changes. -/
def Raises (i : Instr) (s : State) (k : Nat) : Prop :=
  exec i s = .next { s with
    blk := { s.blk with exc := BitVec.ofNat 3 k, flt := s.blk.flt ||| (1#6 <<< k) }
    done := s.done ++ [{ exc := BitVec.ofNat 3 k, value := .nothing }] }

/-- A step in which the host issues the command `c` (and `rest` after it) completes as `Completes` says. -/
def CommandCompletes (c : Command) (rest : List HostEvent) (s : State) (b : Block) (v : Returned) : Prop :=
  s.host = .command c :: rest →
    step s = .next { s with
      blk := { b with exc := 0 }, host := rest, done := s.done ++ [{ exc := 0, value := v }] }

/-- A step in which the host issues the command `c` (and `rest` after it) raises as `Raises` says. -/
def CommandRaises (c : Command) (rest : List HostEvent) (s : State) (k : Nat) : Prop :=
  s.host = .command c :: rest →
    step s = .next { s with
      blk := { s.blk with exc := BitVec.ofNat 3 k, flt := s.blk.flt ||| (1#6 <<< k) }
      host := rest, done := s.done ++ [{ exc := BitVec.ofNat 3 k, value := .nothing }] }

/-- `k` steps of the machine, as the host runs it. -/
def run (k : Nat) (s : State) : StepResult := Host.Core.run Sys2Proof.core k s

/-- The accumulator after an `RX.END` in `s` that is past the length tests (R88, R85): the CRC of `RXBUF[0..RXLEN-2)`
when `STRICT_CRC = 1` and `RXLEN >= 5`, else as it was. -/
def crcAfterRxEnd (s : State) : Word :=
  if s.cfg.strictCrc = true ∧ 5 ≤ s.blk.rxLen then crcAcc (s.blk.rxbuf.take (s.blk.rxLen - 2)) else s.blk.crc

/-- The response `r` is at least 5 bytes long and gets past the CRC test S2 (R85): it is lenient or its last two bytes
are the CRC of the bytes before them. -/
def PastCrcTest (strict : Bool) (r : List Byte) : Prop :=
  5 ≤ r.length ∧ (strict = true → r.drop (r.length - 2) = crc16 (r.take (r.length - 2)))

/-- A `REQ.BUILD` with the operands of `c` is built and not refused (R75, R79). -/
def BuildAccepted (cfg : Config) (c : Command) : Prop :=
  c.fc = 0x03 ∨ c.fc = 0x04 ∨ c.fc = 0x06 ∨ (c.fc = 0x10 ∧ c.vals.length ≤ cfg.maxWriteRegs)

/-- The command `c` writes `CRC` when `RXLEN = rxLen` (R11, R122): `CRC.INIT`, `CRC.UPD`, a `REQ.BUILD` that is not
refused, and a strict `RX.END` on 5 or more bytes. -/
def WritesCrc (cfg : Config) (rxLen : Nat) (c : Command) : Prop :=
  c.cmd = 0x1 ∨ c.cmd = 0x2 ∨ (c.cmd = 0x4 ∧ BuildAccepted cfg c) ∨ (c.cmd = 0x8 ∧ cfg.strictCrc = true ∧ 5 ≤ rxLen)

/-- `RXLEN` after the command `c` (R13): one more after an `RX.PUSH` that finds room, 0 after `RX.FLUSH`. -/
def rxLenAfter (cfg : Config) (c : Command) (rxLen : Nat) : Nat :=
  if c.cmd = 0x6 ∧ rxLen < cfg.rxMax then rxLen + 1 else if c.cmd = 0x7 then 0 else rxLen

/-- Of the commands `cs`, issued one after the other from `RXLEN = rxLen` on, each is a `CRC.UPD` or does not write `CRC`
where it is issued (R71, R122): what may stand between the `CRC.INIT` and the end of one computation. -/
def CrcInterleavable (cfg : Config) : Nat → List Command → Prop
  | _, [] => True
  | rxLen, c :: cs => (c.cmd = 0x2 ∨ ¬ WritesCrc cfg rxLen c) ∧ CrcInterleavable cfg (rxLenAfter cfg c rxLen) cs

/-- The bytes the `CRC.UPD` commands of a sequence absorb, in order. -/
def updBytes (cs : List Command) : List Byte := (cs.filter fun c => c.cmd == 0x2).map Command.b

/-- A request instruction (R53): one of the four `REQ.BUILD` dispatches to. -/
def IsRequest : Instr → Prop
  | .reqRdh .. | .reqRdi .. | .reqWr1 .. | .reqWrm .. => True
  | .crcInit | .crcUpd _ | .crcEmit | .txPop | .rxPush _ | .rxFlush => False
  | .rspNone | .rspShort | .rspBadCrc | .rspErr .. | .rspRdh .. | .rspRdi .. | .rspWr1 _ | .rspWrm _ | .rspRaw .. => False

end Sys2Proof.Machine
end

