-- ==== Sys2Proof/Certificates/Slice0/Obligations.lean ====
section
/-! DEFINITION. The statements for the provers, each about the machine as the rules of spec/ give it. `Completes`,
`Raises`, `CommandCompletes` and `CommandRaises` (Safety.lean) give the whole next state, so each statement made with
them is also the frame of the instruction it names. -/

open Sys2Proof
open Sys2Proof.Machine

/-! ### Reset and the shape of a step -/

/-- R21, with R4's defaults of the four parameters; that no event is issued and none completed is the model's
(log 1, 2). -/
def Obligations.ResetStateValues : Prop :=
  State.reset.blk.crc = 0xFFFF ∧ State.reset.blk.txLen = 0 ∧ State.reset.blk.txptr = 0 ∧ State.reset.blk.rxLen = 0
    ∧ State.reset.blk.res.kind.code = 0 ∧ State.reset.blk.res.slave = 0 ∧ State.reset.blk.res.fc = 0
    ∧ State.reset.blk.res.code = 0 ∧ State.reset.blk.res.exknown = false ∧ State.reset.blk.res.bc = 0
    ∧ State.reset.blk.nreg = 0 ∧ State.reset.blk.exc = 0 ∧ State.reset.blk.flt = 0
    ∧ State.reset.cfg.strictCrc = false ∧ State.reset.cfg.maxWriteRegs = 127 ∧ State.reset.cfg.txMax = 263
    ∧ State.reset.cfg.rxMax = 260 ∧ State.reset.host = [] ∧ State.reset.done = []

/-- R120 with the values of R21: from any state, RESET sets every state element to its reset value and leaves
`STRICT_CRC`, and all of the configuration, as it was. -/
def Obligations.ResetEventFromAnyState : Prop :=
  ∀ (s : State) (rest : List HostEvent), s.host = .reset :: rest →
    ∃ t, step s = .next t ∧ t.blk.crc = 0xFFFF ∧ t.blk.txLen = 0 ∧ t.blk.txptr = 0 ∧ t.blk.rxLen = 0
      ∧ t.blk.res.kind = .none ∧ t.blk.res.slave = 0 ∧ t.blk.res.fc = 0 ∧ t.blk.res.code = 0
      ∧ t.blk.res.exknown = false ∧ t.blk.res.bc = 0 ∧ t.blk.nreg = 0 ∧ t.blk.exc = 0 ∧ t.blk.flt = 0
      ∧ t.cfg = s.cfg

/-- When the command the host issues decodes to `i`, the step is `exec i` with the event taken off the host's sequence;
the decoder reads `STRICT_CRC` and the receive buffer as they stand (R57). -/
def Obligations.StepRunsDecodedInstruction : Prop :=
  ∀ (s : State) (c : Command) (rest : List HostEvent) (i : Instr), s.host = .command c :: rest →
    decode c s.cfg.strictCrc s.blk.rxbuf = .ok i → step s = exec i { s with host := rest }

/-- R10: between commands the state does not change. -/
def Obligations.IdleStepChangesNothing : Prop := ∀ s : State, s.host = [] → step s = .next s

/-- R128: every state is one from which every command has a defined outcome; the block is never stuck. -/
def Obligations.EveryStepHasNextState : Prop := ∀ s : State, ∃ t, step s = .next t

/-- A command's step takes exactly that command off the host's sequence and reports exactly one completion, whose code
is `EXC`; a value is returned by a completed `TX.POP` or `CRC.EMIT` only (R57, R105). The two lists are the model's
record (log 1, 2). -/
def Obligations.CommandReportsOneCompletion : Prop :=
  ∀ (s t : State) (c : Command) (rest : List HostEvent), s.host = .command c :: rest → step s = .next t →
    t.host = rest ∧ ∃ v, t.done = s.done ++ [{ exc := t.blk.exc, value := v }]
      ∧ (v = .nothing ↔ ¬ (t.blk.exc = 0 ∧ (c.cmd = 0x3 ∨ c.cmd = 0x5)))

/-! ### The CRC engine -/

/-- R65 and R66: one iteration bit by bit, and the absorption of a byte. -/
def Obligations.CrcBitAndByteFollowTheLoop : Prop :=
  (∀ a : Word, a.getLsbD 0 = false → crcBit a = a >>> 1)
    ∧ (∀ a : Word, a.getLsbD 0 = true → crcBit a = (a >>> 1) ^^^ 0xA001)
    ∧ (∀ a : Word, ∀ i, i < 16 → (crcBit a).getLsbD i
        = (a.getLsbD (i + 1) ^^ (a.getLsbD 0 && (i = 0 ∨ i = 13 ∨ i = 15))))
    ∧ ∀ (a : Word) (b : Byte), crcByte a b = crcBit^[8] (a ^^^ b.zeroExtend 16)

/-- R70: `crc_acc` and `crc16` by their defining equations. -/
def Obligations.CrcAccIsLeftFold : Prop :=
  crcAcc [] = 0xFFFF ∧ (∀ (s : List Byte) (b : Byte), crcAcc (s ++ [b]) = crcByte (crcAcc s) b)
    ∧ ∀ s : List Byte, crc16 s = [(crcAcc s).extractLsb' 0 8, (crcAcc s).extractLsb' 8 8]

/-- R67. -/
def Obligations.CrcInitLoadsFFFF : Prop :=
  ∀ s : State, Completes .crcInit s { s.blk with crc := 0xFFFF } .nothing
    ∧ ∀ (c : Command) rest, c.cmd = 0x1 → CommandCompletes c rest s { s.blk with crc := 0xFFFF } .nothing

/-- R68. -/
def Obligations.CrcUpdAbsorbsByte : Prop :=
  ∀ s : State, (∀ b, Completes (.crcUpd b) s { s.blk with crc := crcByte s.blk.crc b } .nothing)
    ∧ ∀ (c : Command) rest, c.cmd = 0x2 →
      CommandCompletes c rest s { s.blk with crc := crcByte s.blk.crc c.b } .nothing

/-- R69. -/
def Obligations.CrcEmitReturnsLowThenHigh : Prop :=
  ∀ s : State, Completes .crcEmit s s.blk (.pair (s.blk.crc.extractLsb' 0 8) (s.blk.crc.extractLsb' 8 8))
    ∧ ∀ (c : Command) rest, c.cmd = 0x3 →
      CommandCompletes c rest s s.blk (.pair (s.blk.crc.extractLsb' 0 8) (s.blk.crc.extractLsb' 8 8))

/-- R72 (b): the table form, with the table `T[i] = crc_bit^8(zext_16(i))`. -/
def Obligations.CrcTableForm : Prop :=
  ∀ (a : Word) (b : Byte),
    crcByte a b = (a >>> 8) ^^^ crcBit^[8] (((a ^^^ b.zeroExtend 16).extractLsb' 0 8).zeroExtend 16)

/-- R72 (c): the CRC of a sequence followed by its own two CRC bytes is 0. -/
def Obligations.CrcResidueIsZero : Prop := ∀ s : List Byte, crcAcc (s ++ crc16 s) = 0

/-- R72 (d): linearity, for sequences of equal length. -/
def Obligations.CrcIsLinear : Prop :=
  (∀ x y : Word, crcBit (x ^^^ y) = crcBit x ^^^ crcBit y)
    ∧ ∀ s t : List Byte, s.length = t.length →
      crcAcc s ^^^ crcAcc t = (List.zipWith (· ^^^ ·) s t).foldl crcByte 0

/-- R59 and R71: the pseudo-command `CRC16`, from any state: `CRC` is `crc_acc` of its bytes, the last value returned is
`crc16` of them, and nothing of the block but `CRC` and `EXC` has changed. -/
def Obligations.Crc16PseudoCommand : Prop :=
  ∀ (s : State) (bytes : List Byte) (rest : List HostEvent), s.host = pseudoCrc16 bytes ++ rest →
    ∃ t lo hi, run (bytes.length + 2) s = .next t
      ∧ t.blk = { s.blk with crc := crcAcc bytes, exc := 0 } ∧ t.host = rest
      ∧ t.done.getLast? = some { exc := 0, value := .pair lo hi } ∧ [lo, hi] = crc16 bytes

/-- R71 with R122: after `CRC.INIT`, commands that do not write `CRC` may be interleaved freely with the `CRC.UPD`
commands of one computation, every command that raises among them: the accumulator is `crc_acc` of the absorbed bytes. -/
def Obligations.CrcSurvivesInterleaving : Prop :=
  ∀ (s : State) (init : Command) (cs : List Command) (rest : List HostEvent), init.cmd = 0x1 →
    CrcInterleavable s.cfg s.blk.rxLen cs → s.host = .command init :: cs.map .command ++ rest →
    ∃ t, run (cs.length + 1) s = .next t ∧ t.blk.crc = crcAcc (updBytes cs) ∧ t.host = rest

/-! ### Request construction -/

/-- R76 and R77: the two read requests, for every operand value, and for every command that selects them. -/
def Obligations.ReadRequestsBuildFrames : Prop :=
  ∀ (s : State) (slave : Byte) (addr count : Word),
    let body (fc : Byte) : List Byte := [slave, fc, addr.extractLsb' 8 8, addr.extractLsb' 0 8,
      count.extractLsb' 8 8, count.extractLsb' 0 8]
    let built (fc : Byte) : Block := { s.blk with
      txbuf := body fc ++ [(crcAcc (body fc)).extractLsb' 0 8, (crcAcc (body fc)).extractLsb' 8 8]
      txptr := 0, crc := crcAcc (body fc) }
    Completes (.reqRdh slave addr count) s (built 0x03) .nothing
      ∧ Completes (.reqRdi slave addr count) s (built 0x04) .nothing
      ∧ ∀ (c : Command) rest, c.cmd = 0x4 → c.slave = slave → c.addr = addr → c.arg = count →
        (c.fc = 0x03 ∨ c.fc = 0x04) → CommandCompletes c rest s (built c.fc) .nothing

/-- R78: the single write request, for every operand value. -/
def Obligations.WriteSingleBuildsFrame : Prop :=
  ∀ (s : State) (slave : Byte) (addr value : Word),
    let body : List Byte := [slave, 0x06, addr.extractLsb' 8 8, addr.extractLsb' 0 8,
      value.extractLsb' 8 8, value.extractLsb' 0 8]
    let built : Block := { s.blk with
      txbuf := body ++ [(crcAcc body).extractLsb' 0 8, (crcAcc body).extractLsb' 8 8], txptr := 0, crc := crcAcc body }
    Completes (.reqWr1 slave addr value) s built .nothing
      ∧ ∀ (c : Command) rest, c.cmd = 0x4 → c.fc = 0x06 → c.slave = slave → c.addr = addr → c.arg = value →
        CommandCompletes c rest s built .nothing

/-- R79 and R109 with R4's parameter: the multiple write request: the frame for up to `MAX_WRITE_REGS` values, 127 by
default, `BadCount` for more. The rules are this at 127. That the bound is the configuration's field, and that for a
configuration that is not well formed (`Config.wf`: a `MAX_WRITE_REGS` of 128 or more) the frame is still built, its byte
count cut to 8 bits, is the model's (log 13). -/
def Obligations.WriteMultipleBuildsFrameOrRaises : Prop :=
  ({} : Config).maxWriteRegs = 127 ∧ ∀ (s : State) (slave : Byte) (addr : Word) (vals : List Word),
    let n := vals.length
    let body : List Byte := [slave, 0x10, addr.extractLsb' 8 8, addr.extractLsb' 0 8,
      (BitVec.ofNat 16 n).extractLsb' 8 8, (BitVec.ofNat 16 n).extractLsb' 0 8, BitVec.ofNat 8 (2 * n)]
      ++ (vals.map fun v => [v.extractLsb' 8 8, v.extractLsb' 0 8]).flatten
    let built : Block := { s.blk with
      txbuf := body ++ [(crcAcc body).extractLsb' 0 8, (crcAcc body).extractLsb' 8 8], txptr := 0, crc := crcAcc body }
    (n ≤ s.cfg.maxWriteRegs → Completes (.reqWrm slave addr vals) s built .nothing)
      ∧ (s.cfg.maxWriteRegs < n → Raises (.reqWrm slave addr vals) s 3)
      ∧ ∀ (c : Command) rest, c.cmd = 0x4 → c.fc = 0x10 → c.slave = slave → c.addr = addr → c.vals = vals →
        (n ≤ s.cfg.maxWriteRegs → CommandCompletes c rest s built .nothing)
        ∧ (s.cfg.maxWriteRegs < n → CommandRaises c rest s 3)

/-- R48: the frame of a multiple write, index by index; the byte at index 4 is 0 because the parameters fit each other
(`Config.wf`, log 13). -/
def Obligations.WriteMultipleFrameByIndex : Prop :=
  ∀ (s : State) (slave : Byte) (addr : Word) (vals : List Word), s.cfg.wf = true →
    vals.length ≤ s.cfg.maxWriteRegs →
    ∃ t, exec (.reqWrm slave addr vals) s = .next t ∧ t.blk.txLen = 9 + 2 * vals.length
      ∧ t.blk.txbuf[0]? = some slave ∧ t.blk.txbuf[1]? = some 0x10
      ∧ t.blk.txbuf[2]? = some (addr.extractLsb' 8 8) ∧ t.blk.txbuf[3]? = some (addr.extractLsb' 0 8)
      ∧ t.blk.txbuf[4]? = some 0x00 ∧ t.blk.txbuf[5]? = some (BitVec.ofNat 8 vals.length)
      ∧ t.blk.txbuf[6]? = some (BitVec.ofNat 8 (2 * vals.length))
      ∧ (∀ k v, vals[k]? = some v → t.blk.txbuf[7 + 2 * k]? = some (v.extractLsb' 8 8)
          ∧ t.blk.txbuf[8 + 2 * k]? = some (v.extractLsb' 0 8))
      ∧ t.blk.txbuf[7 + 2 * vals.length]?
          = some ((crcAcc (t.blk.txbuf.take (7 + 2 * vals.length))).extractLsb' 0 8)
      ∧ t.blk.txbuf[8 + 2 * vals.length]?
          = some ((crcAcc (t.blk.txbuf.take (7 + 2 * vals.length))).extractLsb' 8 8)

/-- R80 and R20: the frame is a function of the operands alone; two states that need agree in nothing get the same one,
and the same `CRC`, where both build it; blocks of one `MAX_WRITE_REGS` (R4) refuse alike. -/
def Obligations.FrameDependsOnOperandsAlone : Prop :=
  ∀ (s₁ s₂ t₁ t₂ : State) (c : Command) (rest₁ rest₂ : List HostEvent), c.cmd = 0x4 →
    s₁.host = .command c :: rest₁ → s₂.host = .command c :: rest₂ → step s₁ = .next t₁ → step s₂ = .next t₂ →
    (s₁.cfg.maxWriteRegs = s₂.cfg.maxWriteRegs → t₁.blk.exc = t₂.blk.exc) ∧ (t₁.blk.exc = 0 → t₂.blk.exc = 0 →
      t₁.blk.txbuf = t₂.blk.txbuf ∧ t₁.blk.txptr = t₂.blk.txptr ∧ t₁.blk.crc = t₂.blk.crc)

/-- R99: every frame the builder produced passes the strict CRC test, so both modes give it the same class; fed the
frame of a write request, the parser gives its slave id and function code. -/
def Obligations.BuiltFramesPassTheStrictTest : Prop :=
  ∀ (i : Instr) (s t : State), IsRequest i → exec i s = .next t → t.blk.exc = 0 →
    decodeResponse true t.blk.txbuf = decodeResponse false t.blk.txbuf
      ∧ decodeResponse true t.blk.txbuf ≠ .rspBadCrc
      ∧ (∀ slave addr value, i = .reqWr1 slave addr value → decodeResponse true t.blk.txbuf = .rspWr1 slave)
      ∧ (∀ slave addr vals, i = .reqWrm slave addr vals → decodeResponse true t.blk.txbuf = .rspWrm slave)

/-! ### Buffer access -/

/-- R100 with R110: the byte at `TXPTR`, or `TxEmpty` at the end of the frame. -/
def Obligations.TxPopHandsOutNextByteOrRaises : Prop :=
  ∀ s : State,
    (∀ b, s.blk.txptr < s.blk.txLen → s.blk.txbuf[s.blk.txptr]? = some b →
      Completes .txPop s { s.blk with txptr := s.blk.txptr + 1 } (.byte b)
        ∧ ∀ (c : Command) rest, c.cmd = 0x5 →
          CommandCompletes c rest s { s.blk with txptr := s.blk.txptr + 1 } (.byte b))
    ∧ (s.blk.txptr = s.blk.txLen →
      Raises .txPop s 4 ∧ ∀ (c : Command) rest, c.cmd = 0x5 → CommandRaises c rest s 4)

/-- R59 with R100: `TX.DRAIN` returns exactly the bytes of the frame not yet popped, in order, and leaves the frame. -/
def Obligations.TxDrainYieldsTheFrame : Prop :=
  ∀ (s : State) (rest : List HostEvent), s.blk.txptr ≤ s.blk.txLen →
    s.host = pseudoTxDrain s.blk.txAvail ++ rest →
    ∃ t, run s.blk.txAvail s = .next t
      ∧ t.done = s.done ++ (s.blk.txbuf.drop s.blk.txptr).map (fun b => { exc := 0, value := .byte b })
      ∧ t.blk.txptr = t.blk.txLen ∧ t.blk.txbuf = s.blk.txbuf ∧ t.blk.flt = s.blk.flt ∧ t.host = rest

/-- R101 with R111: the byte is appended, or discarded with `RxOverrun` when the buffer is full, at `RX_MAX` bytes, 260
by default (R4). -/
def Obligations.RxPushAppendsOrRaises : Prop :=
  ({} : Config).rxMax = 260 ∧ ∀ s : State,
    (s.blk.rxLen < s.cfg.rxMax →
      (∀ b, Completes (.rxPush b) s { s.blk with rxbuf := s.blk.rxbuf ++ [b] } .nothing)
        ∧ ∀ (c : Command) rest, c.cmd = 0x6 →
          CommandCompletes c rest s { s.blk with rxbuf := s.blk.rxbuf ++ [c.b] } .nothing)
    ∧ (s.blk.rxLen = s.cfg.rxMax →
      (∀ b, Raises (.rxPush b) s 5) ∧ ∀ (c : Command) rest, c.cmd = 0x6 → CommandRaises c rest s 5)

/-- R102: `RXLEN <- 0`; the previous result stays. -/
def Obligations.RxFlushEmptiesTheBuffer : Prop :=
  ∀ s : State, Completes .rxFlush s { s.blk with rxbuf := [] } .nothing
    ∧ ∀ (c : Command) rest, c.cmd = 0x7 → CommandCompletes c rest s { s.blk with rxbuf := [] } .nothing

/-! ### Response parsing -/

/-- R97, with the `CRC` of R85 and R88: whatever the state, the step of `RX.END` writes to `RES` and `RREG` the
components of `parse_response(RXBUF[0..RXLEN), STRICT_CRC)`, and writes nothing else but `EXC` and `CRC`. -/
def Obligations.RxEndComputesParseResponse : Prop :=
  ∀ (s : State) (c : Command) rest, c.cmd = 0x8 →
    let p := parseResponse s.blk.rxbuf s.cfg.strictCrc
    CommandCompletes c rest s { s.blk with
      res := { kind := p.kind, slave := p.slave, fc := p.fc, code := p.code, exknown := p.exknown, bc := p.bc }
      rreg := p.regs, crc := crcAfterRxEnd s } .nothing

/-- R85, S0 and S1, and R53's response table, S3 to S8, for a response that is past the CRC test S2, with the fields of
R89 to R95. -/
def Obligations.ResponseClassByFunctionCode : Prop :=
  ∀ (strict : Bool) (r : List Byte),
    (r.length = 0 → decodeResponse strict r = .rspNone)
    ∧ (1 ≤ r.length → r.length ≤ 4 → decodeResponse strict r = .rspShort)
    ∧ (5 ≤ r.length → strict = true → r.drop (r.length - 2) ≠ crc16 (r.take (r.length - 2)) →
        decodeResponse strict r = .rspBadCrc)
    ∧ ∀ slave fc b2, PastCrcTest strict r → r[0]? = some slave → r[1]? = some fc → r[2]? = some b2 →
      let window := (r.drop 3).take (min b2.toNat (r.length - 3))
      (0x80 ≤ fc.toNat → decodeResponse strict r = .rspErr slave fc b2)
      ∧ (fc = 0x03 → decodeResponse strict r = .rspRdh slave b2 window)
      ∧ (fc = 0x04 → decodeResponse strict r = .rspRdi slave b2 window)
      ∧ (fc = 0x06 → decodeResponse strict r = .rspWr1 slave)
      ∧ (fc = 0x10 → decodeResponse strict r = .rspWrm slave)
      ∧ (fc.toNat < 0x80 → fc ≠ 0x03 → fc ≠ 0x04 → fc ≠ 0x06 → fc ≠ 0x10 →
          decodeResponse strict r = .rspRaw slave fc)

/-- R86 and R87: the two classes selected by length: kind only, `CRC` untouched in both modes. The rules are the clauses
on `RX.END`; that the meanings do so in every state, whatever `RXBUF` holds, is the model's choice (log 6). -/
def Obligations.NoResponseAndShortFrame : Prop :=
  ∀ s : State,
    Completes .rspNone s { s.blk with res := { kind := .noResponse }, rreg := [] } .nothing
    ∧ Completes .rspShort s { s.blk with res := { kind := .shortFrame }, rreg := [] } .nothing
    ∧ ∀ (c : Command) rest, c.cmd = 0x8 →
      (s.blk.rxLen = 0 →
        CommandCompletes c rest s { s.blk with res := { kind := .noResponse }, rreg := [] } .nothing)
      ∧ (1 ≤ s.blk.rxLen → s.blk.rxLen ≤ 4 →
        CommandCompletes c rest s { s.blk with res := { kind := .shortFrame }, rreg := [] } .nothing)

/-- R88: a strict response whose trailer is not its CRC: kind 3, all other fields 0, and `CRC` is the CRC of the body.
The rule is the clause on `RX.END`; what the class's meaning does in every state, a lenient or a short one too, is the
model's choice (log 6). -/
def Obligations.BadCrcUnderTheStrictOption : Prop :=
  ∀ s : State,
    Completes .rspBadCrc s { s.blk with res := { kind := .badCrc }, rreg := [], crc := crcAfterRxEnd s } .nothing
    ∧ ∀ (c : Command) rest, c.cmd = 0x8 → s.cfg.strictCrc = true → 5 ≤ s.blk.rxLen →
      s.blk.rxbuf.drop (s.blk.rxLen - 2) ≠ crc16 (s.blk.rxbuf.take (s.blk.rxLen - 2)) →
      CommandCompletes c rest s { s.blk with
        res := { kind := .badCrc }, rreg := [], crc := crcAcc (s.blk.rxbuf.take (s.blk.rxLen - 2)) } .nothing

/-- R90: the error class, for every field value; `EXKNOWN` by membership in the map. That the meaning does so in every
state and for a function code with bit 7 clear too is the model's choice (log 6). -/
def Obligations.ErrorResponseEffect : Prop :=
  ∀ (s : State) (slave fc code : Byte),
    Completes (.rspErr slave fc code) s { s.blk with
      res := { kind := .protocolError, slave := slave, fc := fc, code := code
               exknown := decide (code.toNat ∈ [1, 2, 3, 4, 5, 6, 8]) }
      rreg := [], crc := crcAfterRxEnd s } .nothing

/-- R91 and R92 as class meanings: the result fields, and `N = W div 2` registers, each the big-endian pair at its place
in the data window; a trailing odd byte gives none. That the meanings do so in every state and for a window longer than
any byte count too is the model's choice (log 6). -/
def Obligations.ReadResponseEffect : Prop :=
  ∀ (s : State) (slave bc : Byte) (window : List Byte), ∃ regs : List Word,
    regs.length = window.length / 2
    ∧ (∀ k hi lo, window[2 * k]? = some hi → window[2 * k + 1]? = some lo →
        regs[k]? = some (BitVec.ofNat 16 (hi.toNat * 256 + lo.toNat)))
    ∧ Completes (.rspRdh slave bc window) s { s.blk with
        res := { kind := .readOk, slave := slave, fc := 0x03, bc := bc }, rreg := regs, crc := crcAfterRxEnd s } .nothing
    ∧ Completes (.rspRdi slave bc window) s { s.blk with
        res := { kind := .readOk, slave := slave, fc := 0x04, bc := bc }, rreg := regs, crc := crcAfterRxEnd s } .nothing

/-- R93, R94 and R95 as class meanings. That they do so in every state, and `RSP.RAW` for every function code, is the
model's choice (log 6). -/
def Obligations.WriteAndRawResponseEffect : Prop :=
  ∀ (s : State) (slave fc : Byte),
    let found (kind : ResultKind) (fc : Byte) : Block := { s.blk with
      res := { kind := kind, slave := slave, fc := fc }, rreg := [], crc := crcAfterRxEnd s }
    Completes (.rspWr1 slave) s (found .writeOk 0x06) .nothing
      ∧ Completes (.rspWrm slave) s (found .writeOk 0x10) .nothing
      ∧ Completes (.rspRaw slave fc) s (found .raw fc) .nothing

/-- R91 and R92 on the received bytes: `N = min(B, L - 3) div 2` registers, register `i` from bytes `3 + 2i` and
`4 + 2i`. -/
def Obligations.ReadRegistersAreBigEndianPairs : Prop :=
  ∀ (s : State) (c : Command) (rest : List HostEvent) (slave fc bc : Byte),
    s.host = .command c :: rest → c.cmd = 0x8 → PastCrcTest s.cfg.strictCrc s.blk.rxbuf →
    s.blk.rxbuf[0]? = some slave → s.blk.rxbuf[1]? = some fc → s.blk.rxbuf[2]? = some bc → (fc = 0x03 ∨ fc = 0x04) →
    ∃ t, step s = .next t
      ∧ t.blk.res = { kind := .readOk, slave := slave, fc := fc, code := 0, exknown := false, bc := bc }
      ∧ t.blk.nreg = min bc.toNat (s.blk.rxLen - 3) / 2
      ∧ t.blk.rxbuf = s.blk.rxbuf ∧ t.blk.exc = 0
      ∧ ∀ k hi lo, k < t.blk.nreg → s.blk.rxbuf[3 + 2 * k]? = some hi → s.blk.rxbuf[4 + 2 * k]? = some lo →
        t.blk.rreg[k]? = some (be16 hi lo)

/-- R91's consequence: for a length-consistent read response, `L = B + 5`, the data window is exactly `r[3 .. L-2)`. -/
def Obligations.LengthConsistentWindow : Prop :=
  ∀ (strict : Bool) (r : List Byte) (slave fc bc : Byte), PastCrcTest strict r → r[0]? = some slave →
    r[1]? = some fc → r[2]? = some bc → r.length = bc.toNat + 5 →
    (fc = 0x03 → decodeResponse strict r = .rspRdh slave bc ((r.take (r.length - 2)).drop 3))
    ∧ (fc = 0x04 → decodeResponse strict r = .rspRdi slave bc ((r.take (r.length - 2)).drop 3))
    ∧ (windowRegs ((r.take (r.length - 2)).drop 3)).length = bc.toNat / 2

/-- R88: the strict option only rejects: it gives the lenient class, or BadCrc for a response of 5 or more bytes whose
trailer is wrong. -/
def Obligations.StrictOnlyRejects : Prop :=
  ∀ r : List Byte, decodeResponse true r = decodeResponse false r
    ∨ (decodeResponse true r = .rspBadCrc ∧ 5 ≤ r.length ∧ r.drop (r.length - 2) ≠ crc16 (r.take (r.length - 2)))

/-- R90 with R60, as the caller reads it (R8): an error response of a device surfaces as `ProtocolError` with the kind of
its exception code. -/
def Obligations.DeviceErrorSurfacesItsKind : Prop :=
  ∀ (s : State) (c : Command) (rest : List HostEvent) (fc code : Byte),
    s.host = .command c :: rest → c.cmd = 0x8 → PastCrcTest s.cfg.strictCrc s.blk.rxbuf →
    s.blk.rxbuf[1]? = some fc → s.blk.rxbuf[2]? = some code → fc.getLsbD 7 = true →
    ∃ t, step s = .next t ∧ t.blk.parseResult = some (.protocolError (exceptionKind code))
      ∧ t.blk.res.fc = fc ∧ t.blk.res.code = code ∧ t.blk.nreg = 0

/-- R60: the exception-code map and `EXKNOWN`. -/
def Obligations.ExceptionCodeMap : Prop :=
  exceptionKind 0x01 = .illegalFunction ∧ exceptionKind 0x02 = .illegalDataAddress
    ∧ exceptionKind 0x03 = .illegalDataValue ∧ exceptionKind 0x04 = .slaveDeviceFailure
    ∧ exceptionKind 0x05 = .acknowledge ∧ exceptionKind 0x06 = .slaveDeviceBusy
    ∧ exceptionKind 0x08 = .memoryParityError
    ∧ (∀ code : Byte, code.toNat ∈ [1, 2, 3, 4, 5, 6, 8] → exKnown code = true)
    ∧ ∀ code : Byte, code.toNat ∉ [1, 2, 3, 4, 5, 6, 8] → exceptionKind code = .unknownError code ∧ exKnown code = false

/-- R59 with R97: `RX.FRAME` presents exactly its operand bytes to `parse_response`, from any state. -/
def Obligations.RxFrameParsesItsBytes : Prop :=
  ∀ (s : State) (bytes : List Byte) (rest : List HostEvent), bytes.length ≤ s.cfg.rxMax →
    s.host = pseudoRxFrame bytes ++ rest →
    ∃ t, run (bytes.length + 2) s = .next t ∧ t.host = rest ∧ t.blk.rxbuf = bytes
      ∧ (let p := parseResponse bytes s.cfg.strictCrc
         t.blk.res.kind = p.kind ∧ t.blk.res.slave = p.slave ∧ t.blk.res.fc = p.fc ∧ t.blk.res.code = p.code
          ∧ t.blk.res.exknown = p.exknown ∧ t.blk.res.bc = p.bc ∧ t.blk.rreg = p.regs)
      ∧ t.blk.txbuf = s.blk.txbuf ∧ t.blk.txptr = s.blk.txptr ∧ t.blk.exc = 0 ∧ t.blk.flt = s.blk.flt

/-- R96 and R97: the parser is context-free: two states that agree in `RXBUF[0..RXLEN)` and `STRICT_CRC` get the same
result, whatever was built before. -/
def Obligations.ParserIsContextFree : Prop :=
  ∀ (s₁ s₂ t₁ t₂ : State) (c₁ c₂ : Command) (rest₁ rest₂ : List HostEvent), c₁.cmd = 0x8 → c₂.cmd = 0x8 →
    s₁.host = .command c₁ :: rest₁ → s₂.host = .command c₂ :: rest₂ → s₁.blk.rxbuf = s₂.blk.rxbuf →
    s₁.cfg.strictCrc = s₂.cfg.strictCrc → step s₁ = .next t₁ → step s₂ = .next t₂ →
    t₁.blk.res = t₂.blk.res ∧ t₁.blk.rreg = t₂.blk.rreg

/-- R85: `RX.END` may be issued again: with the buffer unchanged the second one leaves the block as the first did. -/
def Obligations.RxEndIsIdempotent : Prop :=
  ∀ (s t u : State) (c d : Command) (rest : List HostEvent), c.cmd = 0x8 → d.cmd = 0x8 →
    s.host = .command c :: .command d :: rest → step s = .next t → step t = .next u → u.blk = t.blk

/-! ### Command exceptions -/

/-- R107 and R112: a reserved command code, whatever the operands. -/
def Obligations.ReservedCommandCodesRaise : Prop :=
  ∀ (s : State) (c : Command) rest, (c.cmd = 0x0 ∨ 0x9 ≤ c.cmd.toNat) → CommandRaises c rest s 1

/-- R108 and R112: a build with a function code outside the four, whatever the other operands, the number of values
included. -/
def Obligations.OtherFunctionCodesRaise : Prop :=
  ∀ (s : State) (c : Command) rest, c.cmd = 0x4 → c.fc ≠ 0x03 → c.fc ≠ 0x04 → c.fc ≠ 0x06 → c.fc ≠ 0x10 →
    CommandRaises c rest s 2

/-- R105: a command that raises writes nothing of the block but `EXC` and one bit of `FLT`, and returns no value. -/
def Obligations.RaisesArePrecise : Prop :=
  ∀ (s t : State) (c : Command) (rest : List HostEvent), s.host = .command c :: rest → step s = .next t →
    t.blk.exc ≠ 0 → t.blk = { s.blk with exc := t.blk.exc, flt := s.blk.flt ||| (1#6 <<< t.blk.exc.toNat) }
      ∧ t.done = s.done ++ [{ exc := t.blk.exc, value := .nothing }]

/-- R16: `FLT` is sticky: a command that completes leaves it, a command that raises sets the bit of its code. -/
def Obligations.FltIsSticky : Prop :=
  ∀ (s t : State) (c : Command) (rest : List HostEvent), s.host = .command c :: rest → step s = .next t →
    ∀ k, t.blk.flt.getLsbD k = (s.blk.flt.getLsbD k || (t.blk.exc ≠ 0 ∧ k = t.blk.exc.toNat : Bool))

/-- R105: over any run without a RESET event, `FLT = 0` at the end exactly when it was 0 at the start and no command was
refused between. The completions read are the model's record `State.done` (log 2). -/
def Obligations.FltTellsWhetherAnyCommandWasRefused : Prop :=
  ∀ (k : Nat) (s t : State), HostEvent.reset ∉ s.host → run k s = .next t →
    ∃ new, t.done = s.done ++ new ∧ (t.CleanRun ↔ s.CleanRun ∧ ∀ d ∈ new, d.exc = 0)

/-! ### Who writes what -/

/-- R11 and R122: the only commands that change `CRC`. -/
def Obligations.OnlyTheseCommandsChangeCrc : Prop :=
  ∀ (s t : State) (c : Command) (rest : List HostEvent), s.host = .command c :: rest → step s = .next t →
    t.blk.crc ≠ s.blk.crc → c.cmd = 0x1 ∨ c.cmd = 0x2 ∨ (c.cmd = 0x4 ∧ t.blk.exc = 0)
      ∨ (c.cmd = 0x8 ∧ s.cfg.strictCrc = true ∧ 5 ≤ s.blk.rxLen)

/-- R12, R13, R14, R15 and R30: the only commands that change the buffers, the pointer and the result. -/
def Obligations.OnlyTheseCommandsChangeBuffersAndResult : Prop :=
  ∀ (s t : State) (c : Command) (rest : List HostEvent), s.host = .command c :: rest → step s = .next t →
    (t.blk.txbuf ≠ s.blk.txbuf → c.cmd = 0x4 ∧ t.blk.exc = 0)
    ∧ (t.blk.txptr ≠ s.blk.txptr → (c.cmd = 0x4 ∨ c.cmd = 0x5) ∧ t.blk.exc = 0)
    ∧ (t.blk.rxbuf ≠ s.blk.rxbuf → (c.cmd = 0x6 ∨ c.cmd = 0x7) ∧ t.blk.exc = 0)
    ∧ (t.blk.res ≠ s.blk.res ∨ t.blk.rreg ≠ s.blk.rreg → c.cmd = 0x8)

/-- R17: `STRICT_CRC` is static, and with it the parameters of R4: no step changes the configuration, RESET included. -/
def Obligations.StrictCrcNeverChanges : Prop := ∀ s t : State, step s = .next t → t.cfg = s.cfg

/-! ### Invariant -/

/-- R22 at reset, where the parameters are R4's defaults and so the bounds of R22 its numbers (ResetStateValues). -/
def Obligations.InvariantAtReset : Prop := State.reset.Inv

/-- R22: every step keeps the invariants of the block's state, with R14's zero fields, under whatever parameters that fit
each other (`Config.wf`, log 13); a step does not change the parameters (StrictCrcNeverChanges). -/
def Obligations.StepKeepsInvariant : Prop :=
  ∀ s t : State, s.Inv → step s = .next t → t.Inv

/-! ### Encoding -/

/-- Decoding the encoding of a well-formed instruction gives it back, with every operand at every value. -/
def Obligations.DecodeOfEncode : Prop :=
  ∀ i : Instr, i.wf = true → decode (encode i).command (encode i).strict (encode i).resp = .ok i

/-- Whatever the command and the received bytes, what the decoder answers is a well-formed instruction, and it is BadCrc
under the strict option only; and of the rejections of R55 it makes exactly two: the reserved command codes (R57), and,
of `REQ.BUILD`, the function codes outside the four. It rejects no other command: `BadCount`, which R55 also lists, is
raised by the meaning of `REQ.WRM` (WriteMultipleBuildsFrameOrRaises). -/
def Obligations.DecoderAnswersAreWellFormed : Prop :=
  ∀ (c : Command) (strict : Bool) (r : List Byte),
    (∀ i, decode c strict r = .ok i → i.wf = true ∧ (i = .rspBadCrc → strict = true))
    ∧ (decode c strict r = .error .illegalCommand ↔ c.cmd = 0x0 ∨ 0x9 ≤ c.cmd.toNat)
    ∧ (decode c strict r = .error .illegalFunctionCode
        ↔ c.cmd = 0x4 ∧ c.fc ∉ [0x03, 0x04, 0x06, 0x10])
    ∧ ((∃ k, decode c strict r = .error k)
        ↔ (c.cmd = 0x0 ∨ 0x9 ≤ c.cmd.toNat) ∨ (c.cmd = 0x4 ∧ c.fc ∉ [0x03, 0x04, 0x06, 0x10]))

/-- A few selectors of R57, `CMD` in bits 11..8 and `FCB` in bits 7..0, written out from the table: the row each selects.
That the operands a selector does not carry are 0, and which response `FCB` stands for, is the model's choice (log 8). -/
def Obligations.SelectorsDecodeAsTheTableSays : Prop :=
  decodeTableWord 16 0b0001_00000000 = some .crcInit
    ∧ decodeTableWord 16 0b0010_00000000 = some (.crcUpd 0)
    ∧ decodeTableWord 16 0b0100_00000011 = some (.reqRdh 0 0 0)
    ∧ decodeTableWord 16 0b0100_00010000 = some (.reqWrm 0 0 [])
    ∧ decodeTableWord 16 0b0100_00000101 = none
    ∧ decodeTableWord 16 0b0101_00000000 = some .txPop
    ∧ decodeTableWord 16 0b1000_10000000 = some (.rspErr 0 0x80 0)
    ∧ decodeTableWord 16 0b1000_00000100 = some (.rspRdi 0 0 [])
    ∧ decodeTableWord 16 0b1001_00000000 = none

/-- A table word placed as the next command is what the next step runs, from any state (log 8). -/
def Obligations.PlacedWordIsTheNextInstruction : Prop :=
  ∀ (s : State) (nbits w : Nat) (i : Instr), decodeTableWord nbits w = some i →
    step (s.withFetchWord nbits w) = exec i { s.withFetchWord nbits w with host := s.host }
end

