-- ==== Sys2Proof/Laws/Crc.lean ====
section
/-! SUPPORT. Lemmas on frames, their trailing CRC and field bytes. -/

namespace Sys2Proof.Machine

@[simp] theorem crcWire_length (c : Word) : (crcWire c).length = 2 := rfl
@[simp] theorem crc16_length (s : List Byte) : (crc16 s).length = 2 := rfl
@[simp] theorem crcAcc_nil : crcAcc [] = 0xFFFF := rfl

theorem crcAcc_append (s t : List Byte) : crcAcc (s ++ t) = t.foldl crcByte (crcAcc s) := by
  simp [crcAcc, List.foldl_append]

@[simp] theorem frameOf_length (body : List Byte) : (frameOf body).length = body.length + 2 := by
  simp [frameOf]

/-- The body of a built frame is what it was built from. -/
@[simp] theorem bodyOf_frameOf (body : List Byte) : bodyOf (frameOf body) = body := by
  simp [bodyOf, frameOf]

/-- A built frame passes the CRC test (R99). -/
@[simp] theorem trailerOk_frameOf (body : List Byte) : trailerOk (frameOf body) = true := by
  rw [trailerOk, bodyOf_frameOf]
  simp [frameOf]

/-- The CRC test as an equation (R88). -/
theorem trailerOk_iff (r : List Byte) :
    trailerOk r = true ↔ r.drop (r.length - 2) = crc16 (r.take (r.length - 2)) := by
  simp [trailerOk, bodyOf]

@[simp] theorem fieldBytes_length (v : Word) : (fieldBytes v).length = 2 := rfl

@[simp] theorem twoFieldBody_length (slave fc : Byte) (addr arg : Word) : (twoFieldBody slave fc addr arg).length = 6 :=
  rfl

/-- The body of a multiple write has `7 + 2n` bytes (R80). -/
@[simp] theorem writeMultipleBody_length (slave : Byte) (addr : Word) (vals : List Word) :
    (writeMultipleBody slave addr vals).length = 7 + 2 * vals.length := by
  simp [writeMultipleBody]; omega

/-- `N = W div 2` (R91): a trailing odd byte is dropped. -/
@[simp] theorem windowRegs_length : ∀ window : List Byte, (windowRegs window).length = window.length / 2
  | [] => rfl
  | [_] => by simp [windowRegs]
  | _ :: _ :: rest => by simp [windowRegs, windowRegs_length rest]; omega

/-- Register `k` of a data window is the big-endian pair at `2k`, `2k + 1` (R91). -/
theorem windowRegs_getElem? : ∀ (window : List Byte) (k : Nat) (hi lo : Byte), window[2 * k]? = some hi →
    window[2 * k + 1]? = some lo → (windowRegs window)[k]? = some (be16 hi lo)
  | [], k, hi, lo, h, _ => by simp at h
  | [_], k, hi, lo, _, h => by cases k <;> simp at h
  | a :: b :: rest, 0, hi, lo, h, h' => by simp at h h'; simp [windowRegs, h, h']
  | a :: b :: rest, k + 1, hi, lo, h, h' => by
    have e : 2 * (k + 1) = 2 * k + 2 := by omega
    rw [e] at h h'
    simpa [windowRegs] using windowRegs_getElem? rest k hi lo (by simpa using h) (by simpa using h')

/-- `be16` as a number (R6). -/
theorem be16_toNat (hi lo : Byte) : be16 hi lo = BitVec.ofNat 16 (hi.toNat * 256 + lo.toNat) := by
  apply BitVec.eq_of_toNat_eq
  have hh := hi.isLt
  have hl := lo.isLt
  rw [be16, BitVec.toNat_append, BitVec.toNat_ofNat, Nat.shiftLeft_eq, ← Nat.shiftLeft_eq,
    ← Nat.shiftLeft_add_eq_or_of_lt hl, Nat.shiftLeft_eq]
  omega

end Sys2Proof.Machine
end

