-- ==== Sys2Proof/Laws/Decode.lean ====
section
/-! SUPPORT. What the decoder can answer, said once: by command code, and for `RX.END` by length, trailer and function
code. -/

namespace Sys2Proof.Machine

/-- The three shapes of a response (R85): empty, 1 to 4 bytes, or at least 5 with its header fields. -/
theorem response_shapes (r : List Byte) :
    r = [] ∨ (1 ≤ r.length ∧ r.length ≤ 4)
      ∨ ∃ slave fc b2 d0 d1 rest, r = slave :: fc :: b2 :: d0 :: d1 :: rest := by
  match r with
  | [] => exact .inl rfl
  | [_] | [_, _] | [_, _, _] | [_, _, _, _] => exact .inr (.inl ⟨by simp, by simp⟩)
  | a :: b :: c :: d :: e :: rest => exact .inr (.inr ⟨a, b, c, d, e, rest, rfl⟩)

@[simp] theorem decodeResponse_nil (strict : Bool) : decodeResponse strict [] = .rspNone := rfl

/-- S1 (R87). -/
theorem decodeResponse_short (strict : Bool) {r : List Byte} (h1 : 1 ≤ r.length) (h4 : r.length ≤ 4) :
    decodeResponse strict r = .rspShort := by
  match r with
  | [] => simp at h1
  | [_] | [_, _] | [_, _, _] | [_, _, _, _] => rfl
  | a :: b :: c :: d :: e :: rest => simp at h4; omega

/-- S2 and what follows it (R85). -/
theorem decodeResponse_long (strict : Bool) (slave fc b2 d0 d1 : Byte) (rest : List Byte) :
    decodeResponse strict (slave :: fc :: b2 :: d0 :: d1 :: rest)
      = if strict && !trailerOk (slave :: fc :: b2 :: d0 :: d1 :: rest) then .rspBadCrc
        else decodeClass slave fc b2 (d0 :: d1 :: rest) := rfl

/-- A response past the length and CRC tests is classified by its function code (R85, S3 to S8). -/
theorem decodeResponse_past {strict : Bool} {slave fc b2 : Byte} {tail : List Byte} (h2 : 2 ≤ tail.length)
    (h : strict = true → trailerOk (slave :: fc :: b2 :: tail) = true) :
    decodeResponse strict (slave :: fc :: b2 :: tail) = decodeClass slave fc b2 tail := by
  match tail with
  | [] | [_] => simp at h2
  | d0 :: d1 :: rest =>
    rw [decodeResponse_long, if_neg]
    cases strict with
    | false => simp
    | true => simp [h rfl]

/-- A built frame of 3 or more body bytes is classified by its function code in both modes (R99). -/
theorem decodeResponse_frameOf (strict : Bool) (slave fc b2 : Byte) (body : List Byte) :
    decodeResponse strict (frameOf (slave :: fc :: b2 :: body))
      = decodeClass slave fc b2 (body ++ crc16 (slave :: fc :: b2 :: body)) := by
  have e : frameOf (slave :: fc :: b2 :: body) = slave :: fc :: b2 :: (body ++ crc16 (slave :: fc :: b2 :: body)) := rfl
  rw [e]
  exact decodeResponse_past (by simp) fun _ => e ▸ trailerOk_frameOf _

/-- A response of 5 or more bytes by its header fields and the bytes after them (R89). -/
theorem response_of_header {r : List Byte} {slave fc b2 : Byte} (h5 : 5 ≤ r.length) (h0 : r[0]? = some slave)
    (h1 : r[1]? = some fc) (h2 : r[2]? = some b2) : r = slave :: fc :: b2 :: r.drop 3 ∧ 2 ≤ (r.drop 3).length := by
  match r with
  | [] | [_] | [_, _] => simp at h5
  | a :: b :: c :: tail =>
    simp at h0 h1 h2 h5
    subst h0 h1 h2
    exact ⟨rfl, by simpa using h5⟩

/-- What S3 to S8 answer (R89 to R95): one of the six classes, with the condition that selects it. -/
theorem decodeClass_cases (slave fc b2 : Byte) (tail : List Byte) :
    (isErrorFc fc = true ∧ decodeClass slave fc b2 tail = .rspErr slave fc b2)
    ∨ (fc = 0x03 ∧ decodeClass slave fc b2 tail = .rspRdh slave b2 (dataWindow b2 tail))
    ∨ (fc = 0x04 ∧ decodeClass slave fc b2 tail = .rspRdi slave b2 (dataWindow b2 tail))
    ∨ (fc = 0x06 ∧ decodeClass slave fc b2 tail = .rspWr1 slave)
    ∨ (fc = 0x10 ∧ decodeClass slave fc b2 tail = .rspWrm slave)
    ∨ (isRawFc fc = true ∧ decodeClass slave fc b2 tail = .rspRaw slave fc) := by
  unfold decodeClass
  by_cases he : isErrorFc fc = true
  · exact .inl ⟨he, by simp [he]⟩
  · by_cases h3 : fc = fcReadHolding
    · subst h3; exact .inr (.inl ⟨rfl, by simp [he]⟩)
    · by_cases h4 : fc = fcReadInput
      · subst h4; exact .inr (.inr (.inl ⟨rfl, by simp [he, h3]⟩))
      · by_cases h6 : fc = fcWriteSingle
        · subst h6; exact .inr (.inr (.inr (.inl ⟨rfl, by simp [he, h3, h4]⟩)))
        · by_cases h10 : fc = fcWriteMultiple
          · subst h10; exact .inr (.inr (.inr (.inr (.inl ⟨rfl, by simp [he, h3, h4, h6]⟩))))
          · exact .inr (.inr (.inr (.inr (.inr ⟨by simp [isRawFc, he, h3, h4, h6, h10],
              by simp [he, h3, h4, h6, h10]⟩))))

/-- The error bit is the top bit (R90: `r[1] >= 0x80`). -/
theorem isErrorFc_iff (fc : Byte) : isErrorFc fc = true ↔ 0x80 ≤ fc.toNat := by
  have h := BitVec.msb_eq_decide fc
  have h' : fc.msb = isErrorFc fc := rfl
  rw [← h', h]; simp

/-- The data window of a response of 5 or more bytes is well formed (R91). -/
theorem dataWindow_wf (bc d0 d1 : Byte) (rest : List Byte) : windowWf bc (dataWindow bc (d0 :: d1 :: rest)) = true := by
  simp only [windowWf, dataWindow, List.length_take, List.length_cons, Bool.or_eq_true, beq_iff_eq, Bool.and_eq_true,
    decide_eq_true_eq]
  omega

/-- The command codes (R57): the eight commands, and the reserved rest. -/
theorem cmd_cases (k : BitVec 4) :
    k = 0x1 ∨ k = 0x2 ∨ k = 0x3 ∨ k = 0x4 ∨ k = 0x5 ∨ k = 0x6 ∨ k = 0x7 ∨ k = 0x8 ∨ (k = 0x0 ∨ 0x9 ≤ k.toNat) := by
  revert k; decide

/-- `REQ.BUILD` (R75): one of the four requests with the operands it uses, or rejected. -/
theorem decodeRequest_cases (c : Command) :
    (c.fc = 0x03 ∧ decodeRequest c = .ok (.reqRdh c.slave c.addr c.arg))
    ∨ (c.fc = 0x04 ∧ decodeRequest c = .ok (.reqRdi c.slave c.addr c.arg))
    ∨ (c.fc = 0x06 ∧ decodeRequest c = .ok (.reqWr1 c.slave c.addr c.arg))
    ∨ (c.fc = 0x10 ∧ decodeRequest c = .ok (.reqWrm c.slave c.addr c.vals))
    ∨ ((c.fc ≠ 0x03 ∧ c.fc ≠ 0x04 ∧ c.fc ≠ 0x06 ∧ c.fc ≠ 0x10)
        ∧ decodeRequest c = .error .illegalFunctionCode) := by
  unfold decodeRequest fcReadHolding fcReadInput fcWriteSingle fcWriteMultiple
  by_cases h3 : c.fc = 0x03
  · simp [h3]
  · by_cases h4 : c.fc = 0x04
    · simp [h4]
    · by_cases h6 : c.fc = 0x06
      · simp [h6]
      · by_cases h10 : c.fc = 0x10
        · simp [h10]
        · exact .inr (.inr (.inr (.inr ⟨⟨h3, h4, h6, h10⟩,
            by rw [if_neg h3, if_neg h4, if_neg h6, if_neg h10]⟩)))

end Sys2Proof.Machine
end

