-- ==== Sys2Proof/Laws/State.lean ====
section
/-! SUPPORT. One lemma per field and shared update of the state, so that no proof unfolds a record update. -/

namespace Sys2Proof.Machine

@[simp] theorem complete_blk (b : Block) (v : Returned) (s : State) : (complete b v s).blk = { b with exc := 0 } := rfl
@[simp] theorem complete_cfg (b : Block) (v : Returned) (s : State) : (complete b v s).cfg = s.cfg := rfl
@[simp] theorem complete_host (b : Block) (v : Returned) (s : State) : (complete b v s).host = s.host := rfl
@[simp] theorem complete_done (b : Block) (v : Returned) (s : State) :
    (complete b v s).done = s.done ++ [{ exc := 0, value := v }] := rfl

@[simp] theorem raise_blk (k : CmdException) (s : State) :
    (raise k s).blk = { s.blk with exc := k.code, flt := s.blk.flt ||| k.fltBit } := rfl
@[simp] theorem raise_cfg (k : CmdException) (s : State) : (raise k s).cfg = s.cfg := rfl
@[simp] theorem raise_host (k : CmdException) (s : State) : (raise k s).host = s.host := rfl
@[simp] theorem raise_done (k : CmdException) (s : State) :
    (raise k s).done = s.done ++ [{ exc := k.code, value := .nothing }] := rfl

@[simp] theorem withHost_blk (rest : List HostEvent) (s : State) : (s.withHost rest).blk = s.blk := rfl
@[simp] theorem withHost_cfg (rest : List HostEvent) (s : State) : (s.withHost rest).cfg = s.cfg := rfl
@[simp] theorem withHost_host (rest : List HostEvent) (s : State) : (s.withHost rest).host = rest := rfl
@[simp] theorem withHost_done (rest : List HostEvent) (s : State) : (s.withHost rest).done = s.done := rfl

@[simp] theorem resetEvent_blk (s : State) : (resetEvent s).blk = Block.reset := rfl
@[simp] theorem resetEvent_cfg (s : State) : (resetEvent s).cfg = s.cfg := rfl
@[simp] theorem resetEvent_host (s : State) : (resetEvent s).host = s.host := rfl
@[simp] theorem resetEvent_done (s : State) : (resetEvent s).done = s.done := rfl

/-- No exception has code 0, so `EXC` tells a raise from a completion (R106). -/
theorem code_ne_zero (k : CmdException) : k.code ≠ 0 := by cases k <;> decide

/-- `EXC` never holds 6 or 7 (R106). -/
theorem code_le_five (k : CmdException) : k.code.toNat ≤ 5 := by cases k <;> decide

/-- A raise sets the bit of `FLT` that its code numbers, and no other (R16). -/
theorem fltBit_getLsbD (k : CmdException) (n : Nat) : k.fltBit.getLsbD n = decide (n = k.code.toNat) := by
  cases k <;> (rcases n with _ | _ | _ | _ | _ | _ | n <;>
    simp [CmdException.fltBit, CmdException.code, BitVec.getLsbD, Nat.testBit_add_one])

end Sys2Proof.Machine
end

