-- ==== Sys2Proof/Laws/Ops.lean ====
section
/-! SUPPORT. What the shared operations do: the buffers stay within their sizes, and a read is refused exactly outside
the valid indices. -/

namespace Sys2Proof.Machine

/-- A byte is read exactly at the valid indices (R30, R37). -/
theorem memRead_eq_none (buf : List Byte) (i : Nat) : memRead buf i = none ↔ buf.length ≤ i := by
  simp [memRead]

/-- A byte read stands at a valid index (R37). -/
theorem memRead_eq_some {buf : List Byte} {i : Nat} {b : Byte} (h : memRead buf i = some b) : i < buf.length :=
  (List.getElem?_eq_some_iff.mp h).1

@[simp] theorem memAppend_length (buf : List Byte) (b : Byte) : (memAppend buf b).length = buf.length + 1 := by
  simp [memAppend]

/-- The buffers fit at reset (R21). -/
theorem reset_memory_wf : Memory.wf State.reset = true := rfl

/-- The sizes of the three buffers, as a proposition (R30). -/
theorem memory_wf_iff (s : State) :
    Memory.wf s = true ↔ s.blk.txLen ≤ s.cfg.txMax ∧ s.blk.rxLen ≤ s.cfg.rxMax ∧ s.blk.nreg ≤ 127 := by
  simp only [Memory.wf, Bool.and_eq_true, decide_eq_true_eq, and_assoc]

/-- Well-formed parameters, as bounds (R4, R79). -/
theorem config_wf_iff (c : Config) : c.wf = true ↔ 2 * c.maxWriteRegs ≤ 255 ∧ 9 + 2 * c.maxWriteRegs ≤ c.txMax := by
  simp only [Config.wf, Bool.and_eq_true, decide_eq_true_eq]

/-- Loading a frame that fits keeps the sizes (R37): the two CRC bytes follow the body. -/
theorem loadFrame_memory_wf {body : List Byte} {s : State} (hb : body.length + 2 ≤ s.cfg.txMax)
    (h : Memory.wf s = true) : Memory.wf (loadFrame body s) = true := by
  rw [memory_wf_iff] at h ⊢
  exact ⟨by simpa [loadFrame, Block.txLen] using hb, h.2⟩

/-- Appending below the size keeps the sizes (R37). -/
theorem memAppend_memory_wf {b : Byte} {v : Returned} {s : State} (hlt : s.blk.rxLen < s.cfg.rxMax)
    (h : Memory.wf s = true) : Memory.wf (complete { s.blk with rxbuf := memAppend s.blk.rxbuf b } v s) = true := by
  rw [memory_wf_iff] at h ⊢
  exact ⟨h.1, by simpa [Block.rxLen] using hlt, h.2.2⟩

/-- Writing at most 127 registers keeps the sizes (R15). -/
theorem writeResult_memory_wf {res : ResultRecord} {regs : List Word} {crc : Word} {s : State} (hr : regs.length ≤ 127)
    (h : Memory.wf s = true) : Memory.wf (writeResult res regs crc s) = true := by
  rw [memory_wf_iff] at h ⊢
  exact ⟨h.1, h.2.1, hr⟩

/-- The accumulator after the CRC test is the old one or, strict with 5 or more bytes, the CRC of the body (R88). -/
theorem crcAfterTest_cases (s : State) :
    crcAfterTest s = s.blk.crc ∨ (s.cfg.strictCrc = true ∧ 5 ≤ s.blk.rxLen
      ∧ crcAfterTest s = crcAcc (s.blk.rxbuf.take (s.blk.rxLen - 2))) := by
  unfold crcAfterTest
  split
  · next h => exact .inr ⟨h.1, h.2, rfl⟩
  · exact .inl rfl

end Sys2Proof.Machine
end

