-- ==== Sys2Proof/Laws/PerInstr.lean ====
section
/-! SUPPORT. A fact about every instruction as syntax, one lemma per constructor: the response that encodes it fits
`RXBUF` (spec/10_state.md R13), so that the host can push it. -/

namespace Sys2Proof.Laws.EncodedResponseFits

/-- The encoding's response has at most the 260 bytes of R4's default `RX_MAX`. -/
def Statement (i : Instr) : Prop := i.wf = true → (encode i).resp.length ≤ 260

/-- A read response fits: at most 3 header bytes, 255 data bytes and 2 CRC bytes (D9). -/
theorem read_fits {slave fc bc : Byte} {window : List Byte} (h : windowWf bc window = true) :
    (encodeRead slave fc bc window).length ≤ 260 := by
  have hb := bc.isLt
  simp only [windowWf, Bool.or_eq_true, beq_iff_eq, Bool.and_eq_true, decide_eq_true_eq] at h
  unfold encodeRead
  split
  · simp; omega
  · simp; omega

theorem crcInit : Statement .crcInit := fun _ => Nat.zero_le _
theorem crcUpd (b : Byte) : Statement (.crcUpd b) := fun _ => Nat.zero_le _
theorem crcEmit : Statement .crcEmit := fun _ => Nat.zero_le _
theorem reqRdh (slave : Byte) (addr count : Word) : Statement (.reqRdh slave addr count) := fun _ => Nat.zero_le _
theorem reqRdi (slave : Byte) (addr count : Word) : Statement (.reqRdi slave addr count) := fun _ => Nat.zero_le _
theorem reqWr1 (slave : Byte) (addr value : Word) : Statement (.reqWr1 slave addr value) := fun _ => Nat.zero_le _
theorem reqWrm (slave : Byte) (addr : Word) (vals : List Word) : Statement (.reqWrm slave addr vals) :=
  fun _ => Nat.zero_le _
theorem txPop : Statement .txPop := fun _ => Nat.zero_le _
theorem rxPush (b : Byte) : Statement (.rxPush b) := fun _ => Nat.zero_le _
theorem rxFlush : Statement .rxFlush := fun _ => Nat.zero_le _
theorem rspNone : Statement .rspNone := fun _ => Nat.zero_le _
theorem rspShort : Statement .rspShort := fun _ => by decide
theorem rspBadCrc : Statement .rspBadCrc := fun _ => by decide
theorem rspErr (slave fc code : Byte) : Statement (.rspErr slave fc code) := fun _ => by simp [encode, encodeResponse]
theorem rspRdh (slave bc : Byte) (window : List Byte) : Statement (.rspRdh slave bc window) := fun h => read_fits h
theorem rspRdi (slave bc : Byte) (window : List Byte) : Statement (.rspRdi slave bc window) := fun h => read_fits h
theorem rspWr1 (slave : Byte) : Statement (.rspWr1 slave) := fun _ => by simp [encode, encodeResponse]
theorem rspWrm (slave : Byte) : Statement (.rspWrm slave) := fun _ => by simp [encode, encodeResponse]
theorem rspRaw (slave fc : Byte) : Statement (.rspRaw slave fc) := fun _ => by simp [encode, encodeResponse]

end Sys2Proof.Laws.EncodedResponseFits
end

