-- ==== Sys2Proof/Laws/Step.lean ====
section
/-! SUPPORT. What a step can do, said once: by the host's next event, and for a command by its code. -/

namespace Sys2Proof.Machine

/-- A command's step (R10): decode in the state as it stands, then the meaning, or the exception that rejects it. -/
theorem step_command {s : State} {c : Command} {rest : List HostEvent} (h : s.host = .command c :: rest) :
    step s = match decode c s.cfg.strictCrc s.blk.rxbuf with
      | .ok i => exec i (s.withHost rest)
      | .error k => .next (raise k (s.withHost rest)) := by
  unfold step; rw [h]; rfl

theorem step_reset {s : State} {rest : List HostEvent} (h : s.host = .reset :: rest) :
    step s = .next (resetEvent (s.withHost rest)) := by
  unfold step; rw [h]

theorem step_idle {s : State} (h : s.host = []) : step s = .next s := by
  unfold step; rw [h]

/-- A run of `k + 1` steps is a step and a run of `k`. -/
theorem run_succ {s t : State} (h : step s = .next t) (k : Nat) : run (k + 1) s = run k t := by
  have e : ∀ (M : Host.Core) (a b : M.State), M.step a = .next b → Host.Core.run M (k + 1) a = Host.Core.run M k b := by
    intro M a b hab; simp [Host.Core.run, hab]
  exact e core s t h

@[simp] theorem run_zero (s : State) : run 0 s = .next s := rfl

/-- The instruction a command code selects (R57), the two dispatching commands left to their own lemmas. -/
theorem decode_by_cmd (c : Command) (strict : Bool) (r : List Byte) :
    (c.cmd = 0x1 → decode c strict r = .ok .crcInit) ∧ (c.cmd = 0x2 → decode c strict r = .ok (.crcUpd c.b))
    ∧ (c.cmd = 0x3 → decode c strict r = .ok .crcEmit) ∧ (c.cmd = 0x4 → decode c strict r = decodeRequest c)
    ∧ (c.cmd = 0x5 → decode c strict r = .ok .txPop) ∧ (c.cmd = 0x6 → decode c strict r = .ok (.rxPush c.b))
    ∧ (c.cmd = 0x7 → decode c strict r = .ok .rxFlush)
    ∧ (c.cmd = 0x8 → decode c strict r = .ok (decodeResponse strict r))
    ∧ ((c.cmd = 0x0 ∨ 0x9 ≤ c.cmd.toNat) → decode c strict r = .error .illegalCommand) := by
  refine ⟨?_, ?_, ?_, ?_, ?_, ?_, ?_, ?_, ?_⟩ <;> intro h <;> unfold decode
  all_goals try (rw [h]; rfl)
  have e : ∀ k : BitVec 4, (k = 0x0 ∨ 0x9 ≤ k.toNat) → k ≠ 0x1 ∧ k ≠ 0x2 ∧ k ≠ 0x3 ∧ k ≠ 0x4 ∧ k ≠ 0x5 ∧ k ≠ 0x6
      ∧ k ≠ 0x7 ∧ k ≠ 0x8 := by decide
  obtain ⟨h1, h2, h3, h4, h5, h6, h7, h8⟩ := e _ h
  rw [if_neg h1, if_neg h2, if_neg h3, if_neg h4, if_neg h5, if_neg h6, if_neg h7, if_neg h8]

/-- The result an `RX.END` of the received bytes `r` writes: kind, fields and registers (R86 to R95). -/
def classResult : Instr → ResultRecord × List Word
  | .rspNone => ({ kind := .noResponse }, [])
  | .rspShort => ({ kind := .shortFrame }, [])
  | .rspBadCrc => ({ kind := .badCrc }, [])
  | .rspErr slave fc code =>
    ({ kind := .protocolError, slave := slave, fc := fc, code := code, exknown := exKnown code }, [])
  | .rspRdh slave bc window => ({ kind := .readOk, slave := slave, fc := 0x03, bc := bc }, windowRegs window)
  | .rspRdi slave bc window => ({ kind := .readOk, slave := slave, fc := 0x04, bc := bc }, windowRegs window)
  | .rspWr1 slave => ({ kind := .writeOk, slave := slave, fc := 0x06 }, [])
  | .rspWrm slave => ({ kind := .writeOk, slave := slave, fc := 0x10 }, [])
  | .rspRaw slave fc => ({ kind := .raw, slave := slave, fc := fc }, [])
  | .crcInit | .crcUpd _ | .crcEmit | .reqRdh .. | .reqRdi .. | .reqWr1 .. | .reqWrm .. | .txPop | .rxPush _
  | .rxFlush => ({}, [])

/-- What `RX.END` does, in any state (R85): it writes the class's result, and `CRC` only after the CRC test. -/
theorem exec_decodeResponse (s : State) :
    exec (decodeResponse s.cfg.strictCrc s.blk.rxbuf) s
      = .next (writeResult (classResult (decodeResponse s.cfg.strictCrc s.blk.rxbuf)).1
          (classResult (decodeResponse s.cfg.strictCrc s.blk.rxbuf)).2 (crcAfterTest s) s) := by
  rcases response_shapes s.blk.rxbuf with h | ⟨h1, h4⟩ | ⟨slave, fc, b2, d0, d1, rest, h⟩
  · have e : crcAfterTest s = s.blk.crc := by simp [crcAfterTest, Block.rxLen, h]
    rw [h, decodeResponse_nil, e]; rfl
  · have e : crcAfterTest s = s.blk.crc := by
      rw [crcAfterTest, if_neg]; rintro ⟨_, h5⟩; exact absurd (h5.trans h4) (by decide)
    rw [decodeResponse_short _ h1 h4, e]; rfl
  · rw [h, decodeResponse_long]
    split
    · rfl
    · rcases decodeClass_cases slave fc b2 (d0 :: d1 :: rest) with
        ⟨_, e⟩ | ⟨_, e⟩ | ⟨_, e⟩ | ⟨_, e⟩ | ⟨_, e⟩ | ⟨_, e⟩ <;> rw [e] <;> rfl

/-- The body a completed build of the command `c` makes, under the configuration `cfg` (R76 to R79). -/
inductive RequestBody (cfg : Config) (c : Command) : List Byte → Prop where
  | twoField (hf : c.fc = 0x03 ∨ c.fc = 0x04 ∨ c.fc = 0x06) :
      RequestBody cfg c (twoFieldBody c.slave c.fc c.addr c.arg)
  | multiple (hf : c.fc = 0x10) (hn : c.vals.length ≤ cfg.maxWriteRegs) :
      RequestBody cfg c (writeMultipleBody c.slave c.addr c.vals)

/-- A build that completes is an accepted one (R75, R79). -/
theorem RequestBody.accepted {cfg : Config} {c : Command} {body : List Byte} (h : RequestBody cfg c body) :
    BuildAccepted cfg c := by
  cases h with
  | twoField hf => exact hf.elim .inl fun h => .inr (h.elim .inl fun h => .inr (.inl h))
  | multiple hf hn => exact .inr (.inr (.inr ⟨hf, hn⟩))

/-- The length of a built body (R80). -/
theorem RequestBody.length_cases {cfg : Config} {c : Command} {body : List Byte} (h : RequestBody cfg c body) :
    body.length = 6 ∨ ∃ n, n ≤ cfg.maxWriteRegs ∧ body.length = 7 + 2 * n := by
  cases h with
  | twoField => exact .inl rfl
  | multiple _ hn => exact .inr ⟨_, hn, writeMultipleBody_length ..⟩

/-- When a command raises which exception (R106 to R112). -/
inductive RaisedBy (c : Command) (s : State) : CmdException → Prop where
  | illegalCommand (h : c.cmd = 0x0 ∨ 0x9 ≤ c.cmd.toNat) : RaisedBy c s .illegalCommand
  | illegalFunctionCode (h : c.cmd = 0x4) (hf : c.fc ≠ 0x03 ∧ c.fc ≠ 0x04 ∧ c.fc ≠ 0x06 ∧ c.fc ≠ 0x10) :
      RaisedBy c s .illegalFunctionCode
  | badCount (h : c.cmd = 0x4) (hf : c.fc = 0x10) (hn : s.cfg.maxWriteRegs < c.vals.length) : RaisedBy c s .badCount
  | txEmpty (h : c.cmd = 0x5) (he : s.blk.txLen ≤ s.blk.txptr) : RaisedBy c s .txEmpty
  | rxOverrun (h : c.cmd = 0x6) (hf : s.cfg.rxMax ≤ s.blk.rxLen) : RaisedBy c s .rxOverrun

/-- A command that completes in every state raises nothing (R106). -/
theorem RaisedBy.cmd_ne {c : Command} {s : State} {k : CmdException} (h : RaisedBy c s k) :
    c.cmd ≠ 0x1 ∧ c.cmd ≠ 0x2 ∧ c.cmd ≠ 0x3 ∧ c.cmd ≠ 0x7 ∧ c.cmd ≠ 0x8 := by
  cases h with
  | illegalCommand h =>
    revert h; generalize c.cmd = k; revert k; decide
  | illegalFunctionCode h | badCount h | txEmpty h | rxOverrun h => rw [h]; decide

/-- Everything a command's step can do, by command code; `s'` is the state with the event taken. -/
theorem step_command_cases {s t : State} {c : Command} {rest : List HostEvent} (h : s.host = .command c :: rest)
    (ht : step s = .next t) :
    (∃ k, RaisedBy c s k ∧ t = raise k (s.withHost rest))
    ∨ (c.cmd = 0x1 ∧ t = complete { s.blk with crc := 0xFFFF } .nothing (s.withHost rest))
    ∨ (c.cmd = 0x2 ∧ t = complete { s.blk with crc := crcByte s.blk.crc c.b } .nothing (s.withHost rest))
    ∨ (c.cmd = 0x3 ∧ t = complete s.blk (.pair (lo8 s.blk.crc) (hi8 s.blk.crc)) (s.withHost rest))
    ∨ (c.cmd = 0x4 ∧ ∃ body, RequestBody s.cfg c body ∧ t = loadFrame body (s.withHost rest))
    ∨ (c.cmd = 0x5 ∧ ∃ b, memRead s.blk.txbuf s.blk.txptr = some b
        ∧ t = complete { s.blk with txptr := s.blk.txptr + 1 } (.byte b) (s.withHost rest))
    ∨ (c.cmd = 0x6 ∧ s.blk.rxLen < s.cfg.rxMax
        ∧ t = complete { s.blk with rxbuf := s.blk.rxbuf ++ [c.b] } .nothing (s.withHost rest))
    ∨ (c.cmd = 0x7 ∧ t = complete { s.blk with rxbuf := [] } .nothing (s.withHost rest))
    ∨ (c.cmd = 0x8 ∧ t = writeResult (classResult (decodeResponse s.cfg.strictCrc s.blk.rxbuf)).1
          (classResult (decodeResponse s.cfg.strictCrc s.blk.rxbuf)).2 (crcAfterTest s) (s.withHost rest)) := by
  rw [step_command h] at ht
  obtain ⟨d1, d2, d3, d4, d5, d6, d7, d8, d9⟩ := decode_by_cmd c s.cfg.strictCrc s.blk.rxbuf
  have fin : ∀ {a b : State}, (Host.Outcome.next a : StepResult) = .next b → b = a := by
    intro a b e; exact (Host.Outcome.next.inj e).symm
  rcases cmd_cases c.cmd with hc | hc | hc | hc | hc | hc | hc | hc | hc
  · rw [d1 hc] at ht; exact .inr (.inl ⟨hc, fin ht⟩)
  · rw [d2 hc] at ht; exact .inr (.inr (.inl ⟨hc, fin ht⟩))
  · rw [d3 hc] at ht; exact .inr (.inr (.inr (.inl ⟨hc, fin ht⟩)))
  · rw [d4 hc] at ht
    rcases decodeRequest_cases c with ⟨hf, e⟩ | ⟨hf, e⟩ | ⟨hf, e⟩ | ⟨hf, e⟩ | ⟨hf, e⟩ <;> rw [e] at ht
    · exact .inr (.inr (.inr (.inr (.inl ⟨hc, _, .twoField (.inl hf), hf ▸ fin ht⟩))))
    · exact .inr (.inr (.inr (.inr (.inl ⟨hc, _, .twoField (.inr (.inl hf)), hf ▸ fin ht⟩))))
    · exact .inr (.inr (.inr (.inr (.inl ⟨hc, _, .twoField (.inr (.inr hf)), hf ▸ fin ht⟩))))
    · simp only [exec, execReqWrm] at ht
      split at ht
      · next hn => exact .inl ⟨_, .badCount hc hf hn, fin ht⟩
      · next hn =>
        exact .inr (.inr (.inr (.inr (.inl ⟨hc, _, .multiple hf (Nat.le_of_not_lt hn), fin ht⟩))))
    · exact .inl ⟨_, .illegalFunctionCode hc hf, fin ht⟩
  · rw [d5 hc] at ht
    simp only [exec, execTxPop] at ht
    split at ht
    · next hb => exact .inl ⟨_, .txEmpty hc ((memRead_eq_none _ _).mp hb), fin ht⟩
    · next b hb => exact .inr (.inr (.inr (.inr (.inr (.inl ⟨hc, b, hb, fin ht⟩)))))
  · rw [d6 hc] at ht
    simp only [exec, execRxPush] at ht
    split at ht
    · next hn => exact .inl ⟨_, .rxOverrun hc hn, fin ht⟩
    · next hn =>
      exact .inr (.inr (.inr (.inr (.inr (.inr (.inl ⟨hc, Nat.lt_of_not_le hn, fin ht⟩))))))
  · rw [d7 hc] at ht; exact .inr (.inr (.inr (.inr (.inr (.inr (.inr (.inl ⟨hc, fin ht⟩)))))))
  · rw [d8 hc] at ht
    have e := exec_decodeResponse (s.withHost rest)
    simp only [withHost_cfg, withHost_blk] at e
    refine .inr (.inr (.inr (.inr (.inr (.inr (.inr (.inr ⟨hc, ?_⟩)))))))
    exact fin (e.symm.trans ht ▸ rfl)
  · rw [d9 hc] at ht; exact .inl ⟨_, .illegalCommand hc, fin ht⟩

end Sys2Proof.Machine
end

