-- ==== Sys2Proof/Tests/Slice0.lean ====
section
/-! SUPPORT. Small tests: ill-formed terms, every constructor's decoding from a command or response written out from the
spec, one step per instruction with the expected result of spec/95_test_vectors.md, and a witness for the hypotheses of
every statement. -/

namespace Sys2Proof.Tests

open Sys2Proof.Machine

/-! ### WellFormed: one refused term for each check -/

theorem test_wf_err_without_error_bit : (Instr.rspErr 1 0x7F 2).wf = false := by decide
theorem test_wf_window_of_one_byte_of_four : (Instr.rspRdh 1 4 [0x12]).wf = false := by decide
theorem test_wf_window_longer_than_count : (Instr.rspRdi 1 2 [1, 2, 3]).wf = false := by decide
theorem test_wf_raw_with_error_bit : (Instr.rspRaw 1 0x80).wf = false := by decide
theorem test_wf_raw_read_holding : (Instr.rspRaw 1 0x03).wf = false := by decide
theorem test_wf_raw_read_input : (Instr.rspRaw 1 0x04).wf = false := by decide
theorem test_wf_raw_write_single : (Instr.rspRaw 1 0x06).wf = false := by decide
theorem test_wf_raw_write_multiple : (Instr.rspRaw 1 0x10).wf = false := by decide
/-- The parameters of R4: the defaults fit, a byte count of two bytes does not, nor a frame longer than `TXBUF`. -/
theorem test_wf_config : ({} : Config).wf = true ∧ ({ maxWriteRegs := 128, txMax := 265 } : Config).wf = false
    ∧ ({ txMax := 262 } : Config).wf = false := by decide

/-! ### Decode: the command codes of R57, the function codes of R53, the responses of 95_test_vectors.md 2.7 -/

/-- The lenient decoder's answer, none where it rejects. -/
def dec (c : Command) (r : List Byte := []) (strict : Bool := false) : Option Instr := (decode c strict r).toOption

/-- The command `RX.END` (R57). -/
def rxEnd : Command := { cmd := 0b1000 }

theorem test_decode_crcInit : dec { cmd := 0b0001 } = some .crcInit := by decide
theorem test_decode_crcUpd : dec { cmd := 0b0010, b := 0xA5 } = some (.crcUpd 0xA5) := by decide
theorem test_decode_crcEmit : dec { cmd := 0b0011 } = some .crcEmit := by decide
theorem test_decode_reqRdh :
    dec { cmd := 0b0100, slave := 1, fc := 0b00000011, addr := 0x9000, arg := 2 } = some (.reqRdh 1 0x9000 2) := by
  decide
theorem test_decode_reqRdi :
    dec { cmd := 0b0100, slave := 1, fc := 0b00000100, addr := 0x3104, arg := 1 } = some (.reqRdi 1 0x3104 1) := by
  decide
theorem test_decode_reqWr1 :
    dec { cmd := 0b0100, slave := 1, fc := 0b00000110, addr := 0x9100, arg := 1234 } = some (.reqWr1 1 0x9100 0x04D2) := by
  decide
theorem test_decode_reqWrm : dec { cmd := 0b0100, slave := 1, fc := 0b00010000, addr := 0x9000, vals := [4, 200] }
    = some (.reqWrm 1 0x9000 [4, 200]) := by decide
theorem test_decode_txPop : dec { cmd := 0b0101 } = some .txPop := by decide
theorem test_decode_rxPush : dec { cmd := 0b0110, b := 0x5A } = some (.rxPush 0x5A) := by decide
theorem test_decode_rxFlush : dec { cmd := 0b0111 } = some .rxFlush := by decide
/-- V2.40 -/
theorem test_decode_rspNone : dec rxEnd [] = some .rspNone := by decide
/-- V2.43: the error bit of a short response is not looked at. -/
theorem test_decode_rspShort : dec rxEnd [0x01, 0x84, 0x02] = some .rspShort := by decide
/-- V2.45 -/
theorem test_decode_rspBadCrc :
    dec rxEnd [0x01, 0x04, 0x02, 0x09, 0x98, 0xBE, 0xCB] (strict := true) = some .rspBadCrc := by decide +kernel
/-- V2.57 -/
theorem test_decode_rspErr : dec rxEnd [0x01, 0x84, 0x02, 0xC2, 0xC1] = some (.rspErr 1 0x84 2) := by decide
/-- V2.54: a truncated response; the window is cut at the end of what was received. -/
theorem test_decode_rspRdh_truncated :
    dec rxEnd [0x01, 0x03, 0xFF, 0x00, 0x01, 0x00, 0x02] = some (.rspRdh 1 0xFF [0x00, 0x01, 0x00, 0x02]) := by decide
/-- V2.44: the CRC is not in the window; the strict test passes. -/
theorem test_decode_rspRdi : dec rxEnd [0x01, 0x04, 0x02, 0x09, 0x98, 0xBE, 0xCA] (strict := true)
    = some (.rspRdi 1 2 [0x09, 0x98]) := by decide +kernel
/-- V2.65 -/
theorem test_decode_rspWr1 : dec rxEnd [0x01, 0x06, 0x90, 0x00, 0x00, 0x04, 0xA5, 0x09] = some (.rspWr1 1) := by decide
/-- V2.66 -/
theorem test_decode_rspWrm : dec rxEnd [0x01, 0x10, 0x90, 0x00, 0x00, 0x02, 0x6C, 0xC8] = some (.rspWrm 1) := by decide
/-- V2.68 -/
theorem test_decode_rspRaw : dec rxEnd [0x01, 0x2B, 0x0E, 0x01, 0x00] = some (.rspRaw 1 0x2B) := by decide
/-- R57: reserved codes. -/
theorem test_decode_reserved_codes : decode { cmd := 0x0 } false [] = .error .illegalCommand
    ∧ decode { cmd := 0x9 } false [] = .error .illegalCommand
    ∧ decode { cmd := 0xF } false [] = .error .illegalCommand := ⟨rfl, rfl, rfl⟩
/-- V2.34: the function code is looked at before the number of values. -/
theorem test_decode_other_function_code :
    decode { cmd := 0x4, fc := 0x05, vals := List.replicate 200 0 } false [] = .error .illegalFunctionCode := rfl

/-! ### Encode: the words of R57 and R58 -/

theorem test_encode_reqWr1 : (encode (.reqWr1 1 0x9000 4)).command
    = { cmd := 0x4, slave := 0x01, fc := 0x06, addr := 0x9000, arg := 0x0004 } := by decide
/-- V2.44: the response that encodes the source's fixture is the fixture with its CRC. -/
theorem test_encode_rspRdi : (encode (.rspRdi 1 2 [0x09, 0x98])).resp = [0x01, 0x04, 0x02, 0x09, 0x98, 0xBE, 0xCA] := by
  decide +kernel

/-! ### The CRC functions (95_test_vectors.md 2.1 to 2.4) -/

theorem test_crcBit : crcBit 0xFFFE = 0x7FFF ∧ crcBit 0x7FFF = 0x9FFE ∧ crcBit 0x0001 = 0xA001
    ∧ crcBit 0xFFFF = 0xDFFE := by decide
theorem test_crcByte : crcByte 0xFFFF 0x01 = 0x807E ∧ crcByte 0xFFFF 0x00 = 0x40BF ∧ crcByte 0xFFFF 0xFF = 0x00FF
    ∧ crcByte 0x807E 0x04 = 0xE301 ∧ crcByte 0x0AA9 0x33 = 0x6B8A := by decide +kernel
/-- V2.6: the catalogued check value of "123456789". -/
theorem test_crcAcc_check_value :
    crcAcc [0x31, 0x32, 0x33, 0x34, 0x35, 0x36, 0x37, 0x38, 0x39] = 0x4B37 := by decide +kernel
/-- V2.1: the source's example input. -/
theorem test_crc16_source_example : crc16 [0x01, 0x04, 0x31, 0x04, 0x00, 0x01] = [0x7E, 0xF7] := by decide +kernel
/-- Rows 0x00, 0x80 and 0xF8 of the table 2.4. -/
theorem test_crc_table_rows :
    ((List.range 8).map fun k => crcBits8 (BitVec.ofNat 16 k))
      = [0x0000, 0xC0C1, 0xC181, 0x0140, 0xC301, 0x03C0, 0x0280, 0xC241]
    ∧ ((List.range 8).map fun k => crcBits8 (BitVec.ofNat 16 (0x80 + k)))
      = [0xA001, 0x60C0, 0x6180, 0xA141, 0x6300, 0xA3C1, 0xA281, 0x6240]
    ∧ ((List.range 8).map fun k => crcBits8 (BitVec.ofNat 16 (0xF8 + k)))
      = [0x8201, 0x42C0, 0x4380, 0x8341, 0x4100, 0x81C1, 0x8081, 0x4040] := by decide +kernel

/-! ### One step per instruction -/

/-- The reset state with the block's state, the strict option and the host's next command given. -/
def stateOf (c : Command) (b : Block := Block.reset) (strict : Bool := false) : State :=
  { State.reset with blk := b, cfg := { strictCrc := strict }, host := [.command c] }

/-- The state after one step; the reset state where the step stops. -/
def after (s : State) : State := match step s with
  | .next t => t
  | .fault _ => State.reset
  | .refused _ => State.reset

/-- The block at reset with these received bytes. -/
def received (r : List Byte) : Block := { Block.reset with rxbuf := r }

/-- The frame of V2.20 with `TXPTR` given. -/
def sent (k : Nat) : Block :=
  { Block.reset with txbuf := [0x01, 0x04, 0x31, 0x04, 0x00, 0x01, 0x7E, 0xF7], txptr := k, crc := 0xF77E }

/-- 2.5, row 1. -/
theorem test_step_crcInit : (after (stateOf { cmd := 0x1 } { Block.reset with crc := 0x1234 })).blk.crc = 0xFFFF := by
  decide
/-- 2.5, row 2. -/
theorem test_step_crcUpd : (after (stateOf { cmd := 0x2, b := 0x01 })).blk.crc = 0x807E := by decide +kernel
/-- 2.5, row 3. -/
theorem test_step_crcEmit : (after (stateOf { cmd := 0x3 } (sent 0))).done = [{ exc := 0, value := .pair 0x7E 0xF7 }]
    ∧ (after (stateOf { cmd := 0x3 } (sent 0))).blk.crc = 0xF77E := by decide
/-- V2.22. -/
theorem test_step_reqRdh :
    (after (stateOf { cmd := 0x4, slave := 1, fc := 0x03, addr := 0x9000, arg := 1 })).blk.txbuf
      = [0x01, 0x03, 0x90, 0x00, 0x00, 0x01, 0xA9, 0x0A] := by decide +kernel
/-- V2.35: `vals` is ignored. -/
theorem test_step_reqRdh_ignores_vals :
    (after (stateOf { cmd := 0x4, slave := 1, fc := 0x03, addr := 0x9000, arg := 1, vals := [7, 8, 9] })).blk.crc
      = 0x0AA9 := by decide +kernel
/-- V2.20. -/
theorem test_step_reqRdi :
    (after (stateOf { cmd := 0x4, slave := 1, fc := 0x04, addr := 0x3104, arg := 1 } (sent 5))).blk = sent 0 := by
  decide +kernel
/-- V2.25. -/
theorem test_step_reqWr1 :
    (after (stateOf { cmd := 0x4, slave := 1, fc := 0x06, addr := 0x9100, arg := 1234 })).blk.txbuf
      = [0x01, 0x06, 0x91, 0x00, 0x04, 0xD2, 0x27, 0xAB] := by decide +kernel
/-- V2.26. -/
theorem test_step_reqWrm :
    (after (stateOf { cmd := 0x4, slave := 1, fc := 0x10, addr := 0x9000, vals := [4, 200] })).blk.txbuf
      = [0x01, 0x10, 0x90, 0x00, 0x00, 0x02, 0x04, 0x00, 0x04, 0x00, 0xC8, 0x1F, 0xFE] := by decide +kernel
/-- V2.30: 128 values. -/
theorem test_step_reqWrm_badCount :
    (after (stateOf { cmd := 0x4, slave := 1, fc := 0x10, vals := List.replicate 128 0 } (sent 3))).blk
      = { sent 3 with exc := 3, flt := 0b001000 } := by decide +kernel
/-- R4: a block with room for one value, one received byte. -/
theorem test_step_other_sizes :
    let s c := { stateOf c (received [0x01]) with cfg := { maxWriteRegs := 1, rxMax := 1 } }
    (after (s { cmd := 0x4, fc := 0x10, vals := [4, 200] })).blk.exc = 3 ∧ (after (s { cmd := 0x6 })).blk.exc = 5 := by
  decide
/-- 2.8, row 3: the last byte. -/
theorem test_step_txPop : (after (stateOf { cmd := 0x5 } (sent 7))).done = [{ exc := 0, value := .byte 0xF7 }]
    ∧ (after (stateOf { cmd := 0x5 } (sent 7))).blk.txptr = 8 := by decide
/-- 2.8, row 4. -/
theorem test_step_txPop_empty :
    (after (stateOf { cmd := 0x5 } (sent 8))).blk = { sent 8 with exc := 4, flt := 0b010000 } := by decide
/-- 2.8, rows 5 and 6. -/
theorem test_step_rxPush : (after (stateOf { cmd := 0x6, b := 0x01 })).blk.rxbuf = [0x01]
    ∧ (after (stateOf { cmd := 0x6, b := 0xAA } (received (List.replicate 259 0)))).blk.rxbuf[259]? = some 0xAA := by
  decide +kernel
/-- 2.8, row 7. -/
theorem test_step_rxPush_full : (after (stateOf { cmd := 0x6, b := 0xAA } (received (List.replicate 260 0)))).blk
    = { received (List.replicate 260 0) with exc := 5, flt := 0b100000 } := by decide +kernel
/-- 2.8, row 8. -/
theorem test_step_rxFlush :
    (after (stateOf { cmd := 0x7 } { received [1, 2] with res := { kind := .readOk, bc := 2 }, rreg := [0x0998] })).blk
      = { Block.reset with res := { kind := .readOk, bc := 2 }, rreg := [0x0998] } := by decide
/-- V2.40. -/
theorem test_step_rspNone : (after (stateOf rxEnd)).blk.res.kind.code = 1 := by decide
/-- V2.42: slave id and function code are 0. -/
theorem test_step_rspShort :
    (after (stateOf rxEnd (received [0x01, 0x04, 0x02, 0x09]) true)).blk.res = { kind := .shortFrame } := by decide
/-- V2.45, strict. -/
theorem test_step_rspBadCrc :
    (after (stateOf rxEnd (received [0x01, 0x04, 0x02, 0x09, 0x98, 0xBE, 0xCB]) true)).blk.res = { kind := .badCrc }
    ∧ (after (stateOf rxEnd (received [0x01, 0x04, 0x02, 0x09, 0x98, 0xBE, 0xCB]) true)).blk.crc = 0xCABE := by
  decide +kernel
/-- V2.57: the source's end-to-end scenario. -/
theorem test_step_rspErr : (after (stateOf rxEnd (received [0x01, 0x84, 0x02, 0xC2, 0xC1]))).blk.parseResult
    = some (.protocolError .illegalDataAddress) := by decide
/-- V2.60: an exception code the map does not name. -/
theorem test_step_rspErr_unknown : (after (stateOf rxEnd (received [0x01, 0x90, 0x07, 0x0D, 0xC2]))).blk.res
    = { kind := .protocolError, slave := 1, fc := 0x90, code := 7, exknown := false } := by decide
/-- V2.48. -/
theorem test_step_rspRdh :
    (after (stateOf rxEnd (received [0x01, 0x03, 0x04, 0x00, 0x04, 0x00, 0xC8, 0xBA, 0x64]))).blk.rreg
      = [0x0004, 0x00C8] := by decide
/-- V2.50: the odd byte is dropped. -/
theorem test_step_rspRdi_odd :
    (after (stateOf rxEnd (received [0x01, 0x04, 0x03, 0x12, 0x34, 0x56, 0x00, 0x00]))).blk.rreg = [0x1234] := by decide
/-- V2.44, the source's fixture. -/
theorem test_step_rspRdi :
    (after (stateOf rxEnd (received [0x01, 0x04, 0x02, 0x09, 0x98, 0xBE, 0xCA]))).blk.parseResult
      = some (.readOk [2456]) := by decide
/-- V2.67: five bytes are enough. -/
theorem test_step_rspWr1 : (after (stateOf rxEnd (received [0x01, 0x06, 0x90, 0x00, 0x00]))).blk.res
    = { kind := .writeOk, slave := 1, fc := 0x06 } := by decide
/-- V2.66. -/
theorem test_step_rspWrm : (after (stateOf rxEnd (received [0x01, 0x10, 0x90, 0x00, 0x00, 0x02, 0x6C, 0xC8]))).blk.res
    = { kind := .writeOk, slave := 1, fc := 0x10 } := by decide
/-- V2.69. -/
theorem test_step_rspRaw : (after (stateOf rxEnd (received [0x01, 0x01, 0x01, 0x05, 0x00, 0x00]))).blk.res
    = { kind := .raw, slave := 1, fc := 0x01 } := by decide
/-- R107. -/
theorem test_step_reserved_command :
    (after (stateOf { cmd := 0xF } (sent 2))).blk = { sent 2 with exc := 1, flt := 0b000010 } := by decide
/-- V2.33. -/
theorem test_step_other_function_code : (after (stateOf { cmd := 0x4, slave := 1, fc := 0x05 } (sent 2))).blk
    = { sent 2 with exc := 2, flt := 0b000100 } := by decide
/-- 2.9: RESET leaves the strict option. -/
theorem test_step_reset :
    (after { State.reset with blk := { sent 8 with flt := 0b111110 }, cfg := { strictCrc := true }, host := [.reset] })
      = { State.reset with cfg := { strictCrc := true } } := by decide

/-! ### The table's words from reset -/

/-- A placed word of a command and one of a response class run as the first instruction after reset. -/
theorem test_placed_words : (after (State.reset.withFetchWord 16 0x403)).blk.txLen = 8
    ∧ (after (State.reset.withFetchWord 16 0x800)).blk.res.kind = .noResponse
    ∧ (after (State.reset.withFetchWord 16 0x880)).blk.res.kind = .protocolError
    ∧ (after (State.reset.withFetchWord 16 0x82B)).blk.res.kind = .raw := by decide +kernel

/-! ### Witnesses: each statement's hypotheses are met, clause by clause, at boundary values -/

/-- ResetEventFromAnyState. -/
theorem witness_ResetEventFromAnyState : ({ stateOf rxEnd with host := [.reset] } : State).host = .reset :: [] := rfl
/-- StepRunsDecodedInstruction. -/
theorem witness_StepRunsDecodedInstruction : (stateOf { cmd := 0x5 }).host = .command { cmd := 0x5 } :: []
    ∧ decode { cmd := 0x5 } (stateOf { cmd := 0x5 }).cfg.strictCrc (stateOf { cmd := 0x5 }).blk.rxbuf = .ok .txPop :=
  ⟨rfl, rfl⟩
/-- IdleStepChangesNothing. -/
theorem witness_IdleStepChangesNothing : State.reset.host = [] := rfl
/-- CommandReportsOneCompletion, OnlyTheseCommandsChangeBuffersAndResult, FltIsSticky, StrictCrcNeverChanges: a command
that completes with a value. -/
theorem witness_command_completes_with_value : (stateOf { cmd := 0x5 } (sent 7)).host = .command { cmd := 0x5 } :: []
    ∧ step (stateOf { cmd := 0x5 } (sent 7)) = .next (after (stateOf { cmd := 0x5 } (sent 7)))
    ∧ (after (stateOf { cmd := 0x5 } (sent 7))).blk.exc = 0
    ∧ (after (stateOf { cmd := 0x5 } (sent 7))).blk.txptr ≠ (sent 7).txptr := ⟨rfl, rfl, rfl, by decide⟩
/-- CommandReportsOneCompletion, FltIsSticky, RaisesArePrecise: a command that raises. -/
theorem witness_command_raises : (stateOf { cmd := 0x5 } (sent 8)).host = .command { cmd := 0x5 } :: []
    ∧ step (stateOf { cmd := 0x5 } (sent 8)) = .next (after (stateOf { cmd := 0x5 } (sent 8)))
    ∧ (after (stateOf { cmd := 0x5 } (sent 8))).blk.exc ≠ 0 := ⟨rfl, rfl, by decide⟩
/-- CrcBitAndByteFollowTheLoop: both values of the low bit, and the boundary bits. -/
theorem witness_CrcBitAndByteFollowTheLoop :
    (0xFFFE : Word).getLsbD 0 = false ∧ (0xFFFF : Word).getLsbD 0 = true ∧ 0 < 16 ∧ 15 < 16 := by decide
/-- CrcInitLoadsFFFF, CrcUpdAbsorbsByte, CrcEmitReturnsLowThenHigh. -/
theorem witness_crc_commands : (stateOf { cmd := 0x1 }).host = [.command { cmd := 0x1 }]
    ∧ (stateOf { cmd := 0x2, b := 0xFF }).host = [.command { cmd := 0x2, b := 0xFF }]
    ∧ (stateOf { cmd := 0x3 }).host = [.command { cmd := 0x3 }] := ⟨rfl, rfl, rfl⟩
/-- CrcIsLinear. -/
theorem witness_CrcIsLinear : ([0x12, 0xFF] : List Byte).length = ([0x00, 0x80] : List Byte).length := rfl
/-- Crc16PseudoCommand, with no byte and with two. -/
theorem witness_Crc16PseudoCommand :
    ({ State.reset with host := pseudoCrc16 [] ++ [.reset] } : State).host = pseudoCrc16 [] ++ [.reset]
    ∧ ({ State.reset with host := pseudoCrc16 [1, 2] } : State).host = pseudoCrc16 [1, 2] ++ [] := ⟨rfl, rfl⟩
/-- CrcSurvivesInterleaving, strict: between two `CRC.UPD` a reserved code, a build with another function code, one with
128 values, an `RX.END` on 4 bytes, a `TX.POP` that raises, an `RX.PUSH` and an `RX.FLUSH`; and, lenient, an `RX.END` on 5
bytes. -/
theorem witness_CrcSurvivesInterleaving :
    CrcInterleavable { strictCrc := true } 4 [{ cmd := 0x2, b := 1 }, { cmd := 0xF }, { cmd := 0x4, fc := 0x05 },
      { cmd := 0x4, fc := 0x10, vals := List.replicate 128 0 }, rxEnd, { cmd := 0x5 }, { cmd := 0x6 }, { cmd := 0x7 },
      { cmd := 0x2, b := 2 }]
    ∧ CrcInterleavable State.reset.cfg 5 [rxEnd] := by
  refine ⟨⟨.inl rfl, ?_, ?_, ?_, ?_, ?_, ?_, ?_, .inl rfl, trivial⟩, ?_, trivial⟩ <;>
    exact .inr (by unfold WritesCrc BuildAccepted; decide +kernel)
/-- ReadRequestsBuildFrames, WriteSingleBuildsFrame: the commands' hypotheses, with the largest operands. -/
theorem witness_two_field_requests :
    ∃ c₁ c₂ c₃ : Command, (c₁.cmd = 0x4 ∧ c₁.slave = 0xFF ∧ c₁.addr = 0xFFFF ∧ c₁.arg = 0xFFFF ∧ c₁.fc = 0x03)
      ∧ (c₂.cmd = 0x4 ∧ c₂.slave = 0 ∧ c₂.addr = 0 ∧ c₂.arg = 0 ∧ c₂.fc = 0x04)
      ∧ (c₃.cmd = 0x4 ∧ c₃.fc = 0x06 ∧ c₃.slave = 1 ∧ c₃.addr = 0x9000 ∧ c₃.arg = 4)
      ∧ (stateOf c₁).host = [.command c₁] :=
  ⟨{ cmd := 0x4, slave := 0xFF, addr := 0xFFFF, arg := 0xFFFF, fc := 0x03 }, { cmd := 0x4, fc := 0x04 },
    { cmd := 0x4, fc := 0x06, slave := 1, addr := 0x9000, arg := 4 }, ⟨rfl, rfl, rfl, rfl, rfl⟩, ⟨rfl, rfl, rfl, rfl, rfl⟩,
    ⟨rfl, rfl, rfl, rfl, rfl⟩, rfl⟩
/-- WriteMultipleBuildsFrameOrRaises, WriteMultipleFrameByIndex: 127 values and 128, each clause's boundary. -/
theorem witness_write_multiple : State.reset.cfg.wf = true
    ∧ (List.replicate 127 (0xFFFF : Word)).length ≤ State.reset.cfg.maxWriteRegs
    ∧ State.reset.cfg.maxWriteRegs < (List.replicate 128 (0xFFFF : Word)).length
    ∧ ([] : List Word).length ≤ State.reset.cfg.maxWriteRegs
    ∧ (List.replicate 127 (0xFFFF : Word))[126]? = some 0xFFFF := by decide +kernel
/-- FrameDependsOnOperandsAlone: two states that differ, the same command, built in both. -/
theorem witness_FrameDependsOnOperandsAlone :
    let c : Command := { cmd := 0x4, slave := 1, fc := 0x06, addr := 0x9000, arg := 4 }
    (stateOf c).host = [.command c] ∧ (stateOf c (sent 3) true).host = [.command c]
      ∧ step (stateOf c) = .next (after (stateOf c)) ∧ step (stateOf c (sent 3) true) = .next (after (stateOf c (sent 3) true))
      ∧ (after (stateOf c)).blk.exc = 0 ∧ (after (stateOf c (sent 3) true)).blk.exc = 0
      ∧ (stateOf c).cfg.maxWriteRegs = (stateOf c (sent 3) true).cfg.maxWriteRegs :=
    ⟨rfl, rfl, rfl, rfl, rfl, rfl, rfl⟩
/-- BuiltFramesPassTheStrictTest. -/
theorem witness_BuiltFramesPassTheStrictTest : ∃ t, IsRequest (.reqWrm 1 0x9000 []) ∧ IsRequest (.reqWr1 1 0x9000 4)
    ∧ exec (.reqWrm 1 0x9000 []) State.reset = .next t ∧ t.blk.exc = 0 := ⟨_, trivial, trivial, rfl, rfl⟩
/-- TxPopHandsOutNextByteOrRaises: the last byte, and the end of the frame. -/
theorem witness_TxPopHandsOutNextByteOrRaises :
    (stateOf { cmd := 0x5 } (sent 7)).blk.txptr < (stateOf { cmd := 0x5 } (sent 7)).blk.txLen
    ∧ (stateOf { cmd := 0x5 } (sent 7)).blk.txbuf[(stateOf { cmd := 0x5 } (sent 7)).blk.txptr]? = some 0xF7
    ∧ (stateOf { cmd := 0x5 } (sent 8)).blk.txptr = (stateOf { cmd := 0x5 } (sent 8)).blk.txLen
    ∧ State.reset.blk.txptr = State.reset.blk.txLen := by decide
/-- TxDrainYieldsTheFrame: part of a frame left, and none. -/
theorem witness_TxDrainYieldsTheFrame :
    ({ stateOf rxEnd (sent 6) with host := pseudoTxDrain 2 ++ [.reset] } : State).host
      = pseudoTxDrain (sent 6).txAvail ++ [.reset]
    ∧ (sent 6).txptr ≤ (sent 6).txLen
    ∧ State.reset.host = pseudoTxDrain State.reset.blk.txAvail ++ [] := by decide
/-- RxPushAppendsOrRaises: one byte of room, and none. -/
theorem witness_RxPushAppendsOrRaises : (received (List.replicate 259 0)).rxLen < State.reset.cfg.rxMax
    ∧ (received (List.replicate 260 0)).rxLen = State.reset.cfg.rxMax
    ∧ (stateOf { cmd := 0x6, b := 1 } (received (List.replicate 260 0))).host = [.command { cmd := 0x6, b := 1 }] := by
  decide +kernel
/-- RxFlushEmptiesTheBuffer, RxEndComputesParseResponse. -/
theorem witness_flush_and_end : (stateOf { cmd := 0x7 }).host = [.command { cmd := 0x7 }]
    ∧ (stateOf rxEnd).host = [.command rxEnd] ∧ rxEnd.cmd = 0x8 := ⟨rfl, rfl, rfl⟩
/-- ResponseClassByFunctionCode, NoResponseAndShortFrame: lengths 0, 1, 4. -/
theorem witness_short_lengths : ([] : List Byte).length = 0 ∧ 1 ≤ ([0x01] : List Byte).length
    ∧ ([0x01, 0x83, 0x02, 0x00] : List Byte).length ≤ 4 ∧ (received []).rxLen = 0 ∧ 1 ≤ (received [0x01]).rxLen
    ∧ (received [0x01, 0x83, 0x02, 0x00]).rxLen ≤ 4 := by decide
/-- ResponseClassByFunctionCode, BadCrcUnderTheStrictOption: 5 bytes, strict, a wrong trailer. -/
theorem witness_bad_trailer : (stateOf rxEnd (received [0x01, 0x90, 0x07, 0x0D, 0xC3]) true).cfg.strictCrc = true
    ∧ 5 ≤ (received [0x01, 0x90, 0x07, 0x0D, 0xC3]).rxLen
    ∧ ([0x01, 0x90, 0x07, 0x0D, 0xC3] : List Byte).drop 3 ≠ crc16 (([0x01, 0x90, 0x07, 0x0D, 0xC3] : List Byte).take 3) := by
  decide +kernel
/-- ResponseClassByFunctionCode: the function codes at the edges of the classes, each a response of the shortest length
past the test in lenient mode. -/
theorem witness_class_edges : ∀ fc ∈ ([0x7F, 0x80, 0xFF, 0x00, 0x03, 0x04, 0x06, 0x10, 0x05, 0x0F, 0x11] : List Byte),
    PastCrcTest false [0x01, fc, 0x02, 0x00, 0x00] ∧ ([0x01, fc, 0x02, 0x00, 0x00] : List Byte)[1]? = some fc :=
  fun _ _ => ⟨⟨by simp, by simp⟩, rfl⟩
/-- ReadRegistersAreBigEndianPairs, RxEndIsIdempotent, ParserIsContextFree: strict, past the test, the fixture. -/
theorem witness_ReadRegistersAreBigEndianPairs :
    let r : List Byte := [0x01, 0x04, 0x02, 0x09, 0x98, 0xBE, 0xCA]
    PastCrcTest (stateOf rxEnd (received r) true).cfg.strictCrc r ∧ r[0]? = some 0x01 ∧ r[1]? = some 0x04
      ∧ r[2]? = some 0x02 ∧ (stateOf rxEnd (received r) true).host = [.command rxEnd]
      ∧ (after (stateOf rxEnd (received r) true)).blk.nreg = 1 ∧ r[3 + 2 * 0]? = some 0x09 ∧ r[4 + 2 * 0]? = some 0x98 :=
  ⟨⟨by simp, fun _ => by decide +kernel⟩, rfl, rfl, rfl, rfl, by decide +kernel, rfl, rfl⟩
/-- ReadResponseEffect: the first pair of an odd window, and the last pair of the longest even one. -/
theorem witness_ReadResponseEffect : ([0x12, 0x34, 0x56] : List Byte)[2 * 0]? = some 0x12
    ∧ ([0x12, 0x34, 0x56] : List Byte)[2 * 0 + 1]? = some 0x34
    ∧ (List.replicate 254 (0xFF : Byte))[2 * 126]? = some 0xFF
    ∧ (List.replicate 254 (0xFF : Byte))[2 * 126 + 1]? = some 0xFF := by decide +kernel
/-- LengthConsistentWindow: `B = 0` with 5 bytes, and `B = 255` with 260. -/
theorem witness_LengthConsistentWindow : PastCrcTest false [0x01, 0x03, 0x00, 0x00, 0x00]
    ∧ ([0x01, 0x03, 0x00, 0x00, 0x00] : List Byte).length = (0x00 : Byte).toNat + 5
    ∧ PastCrcTest false ([0x01, 0x04, 0xFF] ++ List.replicate 257 0)
    ∧ (([0x01, 0x04, 0xFF] : List Byte) ++ List.replicate 257 0).length = (0xFF : Byte).toNat + 5 :=
  ⟨⟨by decide, nofun⟩, rfl, ⟨by decide +kernel, nofun⟩, by decide +kernel⟩
/-- DeviceErrorSurfacesItsKind: the smallest error function code. -/
theorem witness_DeviceErrorSurfacesItsKind :
    PastCrcTest (stateOf rxEnd (received [0x01, 0x80, 0x08, 0x00, 0x00])).cfg.strictCrc [0x01, 0x80, 0x08, 0x00, 0x00]
    ∧ (0x80 : Byte).getLsbD 7 = true := ⟨⟨by simp, by simp [stateOf]⟩, by decide⟩
/-- ExceptionCodeMap: codes in and out of the map. -/
theorem witness_ExceptionCodeMap : (0x08 : Byte).toNat ∈ [1, 2, 3, 4, 5, 6, 8]
    ∧ (0x00 : Byte).toNat ∉ [1, 2, 3, 4, 5, 6, 8] ∧ (0x07 : Byte).toNat ∉ [1, 2, 3, 4, 5, 6, 8]
    ∧ (0x09 : Byte).toNat ∉ [1, 2, 3, 4, 5, 6, 8] := by decide
/-- RxFrameParsesItsBytes: no byte, and the largest response. -/
theorem witness_RxFrameParsesItsBytes : ([] : List Byte).length ≤ State.reset.cfg.rxMax
    ∧ (List.replicate 260 (0 : Byte)).length ≤ State.reset.cfg.rxMax
    ∧ ({ State.reset with host := pseudoRxFrame [0x01] } : State).host = pseudoRxFrame [0x01] ++ [] := by decide +kernel
/-- ParserIsContextFree: two states that agree in the received bytes only. -/
theorem witness_ParserIsContextFree :
    let r : List Byte := [0x01, 0x2B, 0x0E, 0x01, 0x00]
    (stateOf rxEnd (received r)).blk.rxbuf = (stateOf rxEnd { sent 3 with rxbuf := r }).blk.rxbuf
      ∧ step (stateOf rxEnd (received r)) = .next (after (stateOf rxEnd (received r)))
      ∧ step (stateOf rxEnd { sent 3 with rxbuf := r }) = .next (after (stateOf rxEnd { sent 3 with rxbuf := r })) :=
  ⟨rfl, rfl, rfl⟩
/-- RxEndIsIdempotent. -/
theorem witness_RxEndIsIdempotent : ∃ s t u : State, s.host = [.command rxEnd, .command rxEnd] ∧ step s = .next t
    ∧ step t = .next u := ⟨{ stateOf rxEnd with host := [.command rxEnd, .command rxEnd] }, _, _, rfl, rfl, rfl⟩
/-- ReservedCommandCodesRaise, DecoderAnswersAreWellFormed: the edges of the reserved codes. -/
theorem witness_ReservedCommandCodesRaise : ({ cmd := 0x0 } : Command).cmd = 0x0 ∧ 0x9 ≤ ({ cmd := 0x9 } : Command).cmd.toNat
    ∧ 0x9 ≤ ({ cmd := 0xF } : Command).cmd.toNat ∧ (stateOf { cmd := 0x9 }).host = [.command { cmd := 0x9 }] := by decide
/-- OtherFunctionCodesRaise. -/
theorem witness_OtherFunctionCodesRaise : ∃ c : Command, c.cmd = 0x4 ∧ c.fc ≠ 0x03 ∧ c.fc ≠ 0x04 ∧ c.fc ≠ 0x06
    ∧ c.fc ≠ 0x10 ∧ (stateOf c).host = [.command c] := ⟨{ cmd := 0x4, fc := 0x05 }, by decide⟩
/-- FltTellsWhetherAnyCommandWasRefused: a run of two steps, one refused. -/
theorem witness_FltTellsWhetherAnyCommandWasRefused :
    ∃ s t : State, HostEvent.reset ∉ s.host ∧ run 2 s = .next t ∧ t.blk.flt = 0b010000 :=
  ⟨{ State.reset with host := [.command { cmd := 0x5 }, .command { cmd := 0x1 }] }, _, by decide, rfl, by decide⟩
/-- OnlyTheseCommandsChangeCrc: a `CRC.INIT` that changes it (a strict `RX.END` that does: test_step_rspBadCrc). -/
theorem witness_OnlyTheseCommandsChangeCrc :
    let s := stateOf { cmd := 0x1 } (sent 0)
    s.host = [.command { cmd := 0x1 }] ∧ step s = .next (after s) ∧ (after s).blk.crc ≠ s.blk.crc :=
  ⟨rfl, rfl, by decide⟩
/-- StepKeepsInvariant: a state with the invariant that takes a step. -/
theorem witness_StepKeepsInvariant : (stateOf { cmd := 0x4, fc := 0x03 }).Inv
    ∧ step (stateOf { cmd := 0x4, fc := 0x03 }) = .next (after (stateOf { cmd := 0x4, fc := 0x03 })) := by
  refine ⟨⟨by decide, ?_⟩, rfl⟩
  constructor
  · decide
  · decide
  · exact .inl rfl
  · intro h; exact absurd h (by decide)
  · decide
  · decide
  · intro _; rfl
  · intro h; cases h
  · exact ⟨.inr (.inr (.inr (.inr ⟨rfl, rfl⟩))), .inr ⟨rfl, rfl⟩, .inr rfl⟩
  · decide
  · decide
/-- DecodeOfEncode: well-formed response instructions at the edges of their windows. -/
theorem witness_DecodeOfEncode : (Instr.rspRdh 1 0 []).wf = true ∧ (Instr.rspRdi 1 3 [0x12, 0x34]).wf = true
    ∧ (Instr.rspErr 1 0x80 0).wf = true ∧ (Instr.rspRaw 1 0x7F).wf = true := by decide
/-- DecoderAnswersAreWellFormed: an accepted and a rejected command (a reserved code: test_decode_reserved_codes). -/
theorem witness_DecoderAnswersAreWellFormed : decode rxEnd true [0, 0, 0, 0, 0] = .ok .rspBadCrc
    ∧ decode { cmd := 0x4, fc := 0x11 } false [] = .error .illegalFunctionCode := by decide +kernel
/-- PlacedWordIsTheNextInstruction. -/
theorem witness_PlacedWordIsTheNextInstruction : decodeTableWord 16 0x8FF = some (.rspErr 0 0xFF 0)
    ∧ decodeTableWord 16 0x800 = some .rspNone := by decide +kernel

end Sys2Proof.Tests
end

section
/-! PROOFS. The statements of spec/10_state.md: reset, the idle step, what no step changes, who writes what, `FLT`, and
the invariants of R22. A command's step is taken apart by `step_command_cases`; each way it may end has one lemma saying
that it keeps `Block.Inv`. -/

namespace Sys2Proof.Machine

/-! ### The two operations that write the frame and the result, field by field -/

@[simp] theorem loadFrame_blk (body : List Byte) (s : State) :
    (loadFrame body s).blk = { s.blk with txbuf := frameOf body, txptr := 0, crc := crcAcc body, exc := 0 } := rfl
@[simp] theorem loadFrame_cfg (body : List Byte) (s : State) : (loadFrame body s).cfg = s.cfg := rfl

@[simp] theorem writeResult_blk (res : ResultRecord) (regs : List Word) (crc : Word) (s : State) :
    (writeResult res regs crc s).blk = { s.blk with res := res, rreg := regs, crc := crc, exc := 0 } := rfl
@[simp] theorem writeResult_cfg (res : ResultRecord) (regs : List Word) (crc : Word) (s : State) :
    (writeResult res regs crc s).cfg = s.cfg := rfl

/-! ### The ways a step may go -/

/-- A step is idle, a RESET, or a command's (R10, R120). -/
theorem step_cases {s t : State} (ht : step s = .next t) :
    t = s ∨ (∃ rest, t = resetEvent (s.withHost rest)) ∨ ∃ c rest, s.host = .command c :: rest := by
  match h : s.host with
  | [] =>
    rw [step_idle h] at ht
    exact .inl (Host.Outcome.next.inj ht).symm
  | .reset :: rest =>
    rw [step_reset h] at ht
    exact .inr (.inl ⟨rest, (Host.Outcome.next.inj ht).symm⟩)
  | .command c :: rest => exact .inr (.inr ⟨c, rest, rfl⟩)

/-- A command raises an exception, or it completes with a block state in which `FLT` is as it was (R105). -/
theorem step_command_raises_or_completes {s t : State} {c : Command} {rest : List HostEvent}
    (h : s.host = .command c :: rest) (ht : step s = .next t) :
    (∃ k, RaisedBy c s k ∧ t = raise k (s.withHost rest))
      ∨ ∃ b v, t = complete b v (s.withHost rest) ∧ b.flt = s.blk.flt := by
  rcases step_command_cases h ht with hk | ⟨-, e⟩ | ⟨-, e⟩ | ⟨-, e⟩ | ⟨-, body, -, e⟩ | ⟨-, b, -, e⟩ | ⟨-, -, e⟩
    | ⟨-, e⟩ | ⟨-, e⟩
  · exact .inl hk
  all_goals exact .inr ⟨_, _, e, rfl⟩

/-! ### Reset and the idle step -/

/-- Settles O1: the values stand in `State.reset`, `Block.reset` and the defaults of `Config`. -/
theorem resetStateValues : Obligations.ResetStateValues := by
  unfold Obligations.ResetStateValues
  simp [State.reset, Block.reset, ResultKind.code]

/-- Settles O2: the next state is `resetEvent`'s, whose block is `Block.reset`. -/
theorem resetEventFromAnyState : Obligations.ResetEventFromAnyState := by
  intro s rest h
  refine ⟨_, step_reset h, ?_⟩
  simp [Block.reset]

/-- Settles O4: the model's own law of the idle step. -/
theorem idleStepChangesNothing : Obligations.IdleStepChangesNothing := fun _ h => step_idle h

/-! ### The configuration and `FLT` -/

/-- Settles O49: neither RESET, nor a raise, nor a completion writes the configuration. -/
theorem strictCrcNeverChanges : Obligations.StrictCrcNeverChanges := by
  intro s t ht
  obtain rfl | ⟨rest, rfl⟩ | ⟨c, rest, h⟩ := step_cases ht
  · rfl
  · simp
  · obtain ⟨k, -, rfl⟩ | ⟨b, v, rfl, -⟩ := step_command_raises_or_completes h ht <;> simp

/-- Settles O45: a raise ORs the bit of its nonzero code into `FLT`; a completion keeps `FLT` and has code 0. -/
theorem fltIsSticky : Obligations.FltIsSticky := by
  intro s t c rest h ht n
  obtain ⟨k, -, rfl⟩ | ⟨b, v, rfl, hflt⟩ := step_command_raises_or_completes h ht
  · have hk : k.code ≠ 0#3 := code_ne_zero k
    simp [fltBit_getLsbD, hk]
  · simp [hflt]

/-! ### Who writes what -/

/-- Settles O47: by the ways a command's step may go; `RX.END` writes what `crcAfterTest_cases` says. -/
theorem onlyTheseCommandsChangeCrc : Obligations.OnlyTheseCommandsChangeCrc := by
  intro s t c rest h ht hne
  obtain ⟨k, -, rfl⟩ | ⟨hc, rfl⟩ | ⟨hc, rfl⟩ | ⟨-, rfl⟩ | ⟨hc, body, -, rfl⟩ | ⟨-, b, -, rfl⟩ | ⟨-, -, rfl⟩ | ⟨-, rfl⟩
    | ⟨hc, rfl⟩ := step_command_cases h ht
  · exact absurd rfl hne -- a raise
  · exact .inl hc
  · exact .inr (.inl hc)
  · exact absurd rfl hne -- `CRC.EMIT`
  · exact .inr (.inr (.inl ⟨hc, rfl⟩))
  · exact absurd rfl hne -- `TX.POP`
  · exact absurd rfl hne -- `RX.PUSH`
  · exact absurd rfl hne -- `RX.FLUSH`
  · obtain hcrc | ⟨hstrict, hlen, -⟩ := crcAfterTest_cases s
    · exact absurd hcrc hne
    · exact .inr (.inr (.inr ⟨hc, hstrict, hlen⟩))

/-- Settles O48: by the ways a command's step may go, each with the fields it writes. -/
theorem onlyTheseCommandsChangeBuffersAndResult : Obligations.OnlyTheseCommandsChangeBuffersAndResult := by
  intro s t c rest h ht
  obtain ⟨k, -, rfl⟩ | ⟨-, rfl⟩ | ⟨-, rfl⟩ | ⟨-, rfl⟩ | ⟨hc, body, -, rfl⟩ | ⟨hc, b, -, rfl⟩ | ⟨hc, -, rfl⟩ | ⟨hc, rfl⟩
    | ⟨hc, rfl⟩ := step_command_cases h ht
  · simp -- a raise
  · simp -- `CRC.INIT`
  · simp -- `CRC.UPD`
  · simp -- `CRC.EMIT`
  · simp [hc] -- `REQ.BUILD`
  · simp [hc] -- `TX.POP`
  · simp [hc] -- `RX.PUSH`
  · simp [hc] -- `RX.FLUSH`
  · simp [hc] -- `RX.END`

/-! ### What `RX.END` writes, as the invariant speaks of it -/

/-- Every class writes 0 to the fields that have no meaning for its kind (R14). -/
theorem classResult_fieldsWf (i : Instr) : (classResult i).1.fieldsWf := by
  cases i <;> simp [classResult, ResultRecord.fieldsWf]

/-- Only a read response writes registers (R15). -/
theorem classResult_regs_of_not_read {i : Instr} (h : (classResult i).1.kind ≠ .readOk) : (classResult i).2 = [] := by
  cases i with
  | rspRdh | rspRdi => exact absurd rfl h
  | _ => rfl

/-- A read response has 5 or more bytes, and its registers are the pairs of `min(B, L - 3)` data bytes (R91). -/
theorem classResult_nreg_of_read {strict : Bool} {r : List Byte}
    (h : (classResult (decodeResponse strict r)).1.kind = .readOk) :
    5 ≤ r.length ∧ (classResult (decodeResponse strict r)).2.length
      = min (classResult (decodeResponse strict r)).1.bc.toNat (r.length - 3) / 2 := by
  obtain rfl | ⟨h1, h4⟩ | ⟨slave, fc, b2, d0, d1, rest, rfl⟩ := response_shapes r
  · cases h
  · rw [decodeResponse_short strict h1 h4] at h
    cases h
  · rw [decodeResponse_long] at h ⊢
    split at h
    · cases h
    · next hpast =>
      rw [if_neg hpast]
      obtain ⟨-, e⟩ | ⟨-, e⟩ | ⟨-, e⟩ | ⟨-, e⟩ | ⟨-, e⟩ | ⟨-, e⟩ :=
        decodeClass_cases slave fc b2 (d0 :: d1 :: rest) <;> rw [e] at h ⊢
      · cases h
      · simp [classResult, dataWindow]
      · simp [classResult, dataWindow]
      · cases h
      · cases h
      · cases h

/-! ### What keeps the invariant of the block's state -/

section BlockInv

variable {cfg : Config} {b : Block}

/-- The reset values have the invariant, whatever the configuration (R21, R22). -/
theorem Block.inv_reset (cfg : Config) : Block.reset.Inv cfg where
  txptr_le := Nat.zero_le _
  txLen_le := Nat.zero_le _
  txLen_form := .inl rfl
  tx_is_frame h := absurd h (Nat.lt_irrefl 0)
  rxLen_le := Nat.zero_le _
  nreg_le := Nat.zero_le _
  nreg_zero _ := rfl
  nreg_read h := nomatch h
  res_fields := by simp [Block.reset, ResultRecord.fieldsWf]
  flt_zero := rfl
  exc_le := Nat.zero_le _

/-- A raise writes a code of R106 and sets a bit of `FLT` that is not bit 0 (R16). -/
theorem Block.Inv.raise (h : b.Inv cfg) (k : CmdException) :
    Block.Inv cfg { b with exc := k.code, flt := b.flt ||| k.fltBit } :=
  { h with
    flt_zero := by
      have hk : 0 ≠ k.code.toNat := fun e => code_ne_zero k (BitVec.eq_of_toNat_eq e.symm)
      rw [BitVec.getLsbD_or, h.flt_zero, fltBit_getLsbD, decide_eq_false hk, Bool.or_false]
    exc_le := code_le_five k }

/-- The invariant does not speak of `CRC`, and `EXC` is 0 after a completion. -/
theorem Block.Inv.complete_crc (h : b.Inv cfg) (crc : Word) : Block.Inv cfg { b with crc := crc, exc := 0 } :=
  { h with exc_le := Nat.zero_le _ }

/-- `TX.POP` below `TXLEN` keeps `TXPTR <= TXLEN` (R100). -/
theorem Block.Inv.advance (h : b.Inv cfg) (hlt : b.txptr < b.txLen) :
    Block.Inv cfg { b with txptr := b.txptr + 1, exc := 0 } :=
  { h with txptr_le := hlt, exc_le := Nat.zero_le _ }

/-- The receive buffer may be anything that fits `RX_MAX` (R13). -/
theorem Block.Inv.receive (h : b.Inv cfg) {r : List Byte} (hr : r.length ≤ cfg.rxMax) :
    Block.Inv cfg { b with rxbuf := r, exc := 0 } :=
  { h with rxLen_le := hr, exc_le := Nat.zero_le _ }

/-- An accepted build loads a frame of 8 or `9 + 2n` bytes, which fits `TXBUF` when the parameters fit (R80, R4). -/
theorem Block.Inv.loadFrame (h : b.Inv cfg) (hcfg : cfg.wf = true) {c : Command} {body : List Byte}
    (hbody : RequestBody cfg c body) :
    Block.Inv cfg { b with txbuf := frameOf body, txptr := 0, crc := crcAcc body, exc := 0 } := by
  obtain ⟨-, hfit⟩ := (config_wf_iff cfg).mp hcfg
  have hlen : (frameOf body).length = 8 ∨ ∃ n, n ≤ cfg.maxWriteRegs ∧ (frameOf body).length = 9 + 2 * n := by
    rw [frameOf_length]
    obtain h6 | ⟨n, hn, h7⟩ := hbody.length_cases
    · exact .inl (by omega)
    · exact .inr ⟨n, hn, by omega⟩
  exact { h with
    txptr_le := Nat.zero_le _
    txLen_le := by
      show (frameOf body).length ≤ cfg.txMax
      obtain h8 | ⟨n, hn, h9⟩ := hlen <;> omega
    txLen_form := .inr hlen
    tx_is_frame := fun _ => ⟨body, rfl⟩
    exc_le := Nat.zero_le _ }

/-- `RX.END` writes a result the invariant allows, the `L` of R22 being `RXLEN` as it stands. -/
theorem Block.Inv.writeClassResult (h : b.Inv cfg) (strict : Bool) (crc : Word) :
    Block.Inv cfg { b with
      res := (classResult (decodeResponse strict b.rxbuf)).1
      rreg := (classResult (decodeResponse strict b.rxbuf)).2
      crc := crc, exc := 0 } :=
  { h with
    nreg_le := by
      show (classResult (decodeResponse strict b.rxbuf)).2.length ≤ 127
      by_cases hread : (classResult (decodeResponse strict b.rxbuf)).1.kind = .readOk
      · obtain ⟨-, hn⟩ := classResult_nreg_of_read hread
        have hbc := (classResult (decodeResponse strict b.rxbuf)).1.bc.isLt
        omega
      · simp [classResult_regs_of_not_read hread]
    nreg_zero := fun hread => by simp [Block.nreg, classResult_regs_of_not_read hread]
    nreg_read := fun hread =>
      have ⟨h5, hn⟩ := classResult_nreg_of_read hread
      ⟨b.rxLen, h5, h.rxLen_le, hn⟩
    res_fields := classResult_fieldsWf _
    exc_le := Nat.zero_le _ }

end BlockInv

/-! ### The invariant at reset and along every step -/

/-- Settles O50: the default parameters fit each other (R4). -/
theorem invariantAtReset : Obligations.InvariantAtReset := ⟨by decide, Block.inv_reset _⟩

/-- A command's step keeps the invariant of the block's state: one of the lemmas above for each way it may go. -/
theorem step_command_keeps_blk_inv {s t : State} {c : Command} {rest : List HostEvent}
    (h : s.host = .command c :: rest) (ht : step s = .next t) (hinv : s.Inv) : t.blk.Inv s.cfg := by
  obtain ⟨hcfg, hblk⟩ := hinv
  obtain ⟨k, -, rfl⟩ | ⟨-, rfl⟩ | ⟨-, rfl⟩ | ⟨-, rfl⟩ | ⟨-, body, hbody, rfl⟩ | ⟨-, b, hb, rfl⟩ | ⟨-, hlt, rfl⟩
    | ⟨-, rfl⟩ | ⟨-, rfl⟩ := step_command_cases h ht
  · exact hblk.raise k
  · exact hblk.complete_crc _
  · exact hblk.complete_crc _
  · exact hblk.complete_crc _
  · exact hblk.loadFrame hcfg hbody
  · exact hblk.advance (memRead_eq_some hb)
  · exact hblk.receive (by simpa using hlt)
  · exact hblk.receive (Nat.zero_le _)
  · exact hblk.writeClassResult _ _

/-- Settles O51: idle, RESET or a command, and no step changes the configuration. -/
theorem stepKeepsInvariant : Obligations.StepKeepsInvariant := by
  intro s t hinv ht
  have hcfg : t.cfg = s.cfg := strictCrcNeverChanges s t ht
  refine ⟨hcfg ▸ hinv.cfg_wf, hcfg ▸ ?_⟩
  obtain rfl | ⟨rest, rfl⟩ | ⟨c, rest, h⟩ := step_cases ht
  · exact hinv.blk_inv
  · exact Block.inv_reset _
  · exact step_command_keeps_blk_inv h ht hinv

end Sys2Proof.Machine
end

section
/-! PROOFS. The statements of spec/30_encoding.md: the encoder and the decoder, a selector of the opcode table placed as
the host's next command, the frames of the four requests, the pseudo-commands of R59 and the exception-code map. -/

namespace Sys2Proof.Machine

/-! ### The classes of a response by function code (R53) -/

theorem decodeClass_of_isErrorFc {fc : Byte} (h : isErrorFc fc = true) (slave b2 : Byte) (tail : List Byte) :
    decodeClass slave fc b2 tail = .rspErr slave fc b2 := by
  rw [decodeClass, if_pos h]

theorem decodeClass_readHolding (slave b2 : Byte) (tail : List Byte) :
    decodeClass slave fcReadHolding b2 tail = .rspRdh slave b2 (dataWindow b2 tail) := rfl

theorem decodeClass_readInput (slave b2 : Byte) (tail : List Byte) :
    decodeClass slave fcReadInput b2 tail = .rspRdi slave b2 (dataWindow b2 tail) := rfl

theorem decodeClass_writeSingle (slave b2 : Byte) (tail : List Byte) :
    decodeClass slave fcWriteSingle b2 tail = .rspWr1 slave := rfl

theorem decodeClass_writeMultiple (slave b2 : Byte) (tail : List Byte) :
    decodeClass slave fcWriteMultiple b2 tail = .rspWrm slave := rfl

/-- The function codes of `RSP.RAW`, as a proposition (R53). -/
theorem isRawFc_iff (fc : Byte) : isRawFc fc = true ↔ ¬ isErrorFc fc = true ∧ fc ≠ fcReadHolding ∧ fc ≠ fcReadInput
    ∧ fc ≠ fcWriteSingle ∧ fc ≠ fcWriteMultiple := by
  simp [isRawFc, and_assoc]

theorem decodeClass_of_isRawFc {fc : Byte} (h : isRawFc fc = true) (slave b2 : Byte) (tail : List Byte) :
    decodeClass slave fc b2 tail = .rspRaw slave fc := by
  obtain ⟨herr, h3, h4, h6, h10⟩ := (isRawFc_iff fc).mp h
  rw [decodeClass, if_neg herr, if_neg h3, if_neg h4, if_neg h6, if_neg h10]

/-! ### Decoding what the encoder gives (R57) -/

/-- The command of an encoded response is `RX.END`. -/
theorem decode_encodeResponse (r : List Byte) (strict : Bool) :
    decode (encodeResponse r strict).command (encodeResponse r strict).strict (encodeResponse r strict).resp
      = .ok (decodeResponse strict r) := rfl

/-- A window that holds all `bc` bytes is what is seen of it, whatever follows (R91). -/
theorem dataWindow_append_of_length_eq {bc : Byte} {window : List Byte} (h : window.length = bc.toNat)
    (trailer : List Byte) : dataWindow bc (window ++ trailer) = window := by
  rw [dataWindow, ← h, List.take_left]

/-- A window of a truncated response is cut at the end of what was received (R91). -/
theorem dataWindow_of_length_le {bc : Byte} {window : List Byte} (h : window.length ≤ bc.toNat) :
    dataWindow bc window = window := List.take_of_length_le h

/-- A read response made for a well-formed window shows that window after its byte count: followed by the CRC when it
is complete, and as the end of the response when it is truncated. -/
theorem decodeResponse_encodeRead {bc : Byte} {window : List Byte} (h : windowWf bc window = true) (slave fc : Byte) :
    ∃ tail, decodeResponse false (encodeRead slave fc bc window) = decodeClass slave fc bc tail
      ∧ dataWindow bc tail = window := by
  simp only [windowWf, Bool.or_eq_true, beq_iff_eq, Bool.and_eq_true, decide_eq_true_eq] at h
  unfold encodeRead
  by_cases hfull : window.length = bc.toNat
  · rw [if_pos hfull]
    exact ⟨_, decodeResponse_frameOf false slave fc bc window, dataWindow_append_of_length_eq hfull _⟩
  · rw [if_neg hfull]
    obtain ⟨htwo, hlt⟩ := h.resolve_left hfull
    exact ⟨_, decodeResponse_past htwo nofun, dataWindow_of_length_le hlt.le⟩

/-- Settles O52: a command's code and function code select its row; a class's response is a built frame, which passes
the CRC test, or a truncated read response. -/
theorem decodeOfEncode : Obligations.DecodeOfEncode := by
  intro i hwf
  cases i with
  | crcInit | crcUpd | crcEmit | reqRdh | reqRdi | reqWr1 | reqWrm | txPop | rxPush | rxFlush => rfl
  | rspNone | rspShort => rfl
  | rspBadCrc =>
    have hbad : trailerOk [0, 0, 0, 0, 0] = false := by decide +kernel
    rw [encode, decode_encodeResponse, decodeResponse_long, hbad]
    rfl
  | rspErr slave fc code =>
    rw [encode, decode_encodeResponse, decodeResponse_frameOf, decodeClass_of_isErrorFc hwf]
  | rspRdh slave bc window =>
    obtain ⟨tail, hclass, hwindow⟩ := decodeResponse_encodeRead hwf slave fcReadHolding
    rw [encode, decode_encodeResponse, hclass, decodeClass_readHolding, hwindow]
  | rspRdi slave bc window =>
    obtain ⟨tail, hclass, hwindow⟩ := decodeResponse_encodeRead hwf slave fcReadInput
    rw [encode, decode_encodeResponse, hclass, decodeClass_readInput, hwindow]
  | rspWr1 slave => rw [encode, decode_encodeResponse, decodeResponse_frameOf, decodeClass_writeSingle]
  | rspWrm slave => rw [encode, decode_encodeResponse, decodeResponse_frameOf, decodeClass_writeMultiple]
  | rspRaw slave fc => rw [encode, decode_encodeResponse, decodeResponse_frameOf, decodeClass_of_isRawFc hwf]

/-! ### What the decoder can answer (R55, R57) -/

/-- The class of a response past the CRC test is a well-formed instruction, and not `RSP.BADCRC`. -/
theorem decodeClass_wf (slave fc b2 d0 d1 : Byte) (rest : List Byte) :
    (decodeClass slave fc b2 (d0 :: d1 :: rest)).wf = true
      ∧ decodeClass slave fc b2 (d0 :: d1 :: rest) ≠ .rspBadCrc := by
  obtain ⟨h, e⟩ | ⟨-, e⟩ | ⟨-, e⟩ | ⟨-, e⟩ | ⟨-, e⟩ | ⟨h, e⟩ :=
    decodeClass_cases slave fc b2 (d0 :: d1 :: rest) <;> rw [e]
  · exact ⟨h, nofun⟩
  · exact ⟨dataWindow_wf b2 d0 d1 rest, nofun⟩
  · exact ⟨dataWindow_wf b2 d0 d1 rest, nofun⟩
  · exact ⟨rfl, nofun⟩
  · exact ⟨rfl, nofun⟩
  · exact ⟨h, nofun⟩

/-- `RX.END` selects a well-formed instruction, and `RSP.BADCRC` under the strict option only (R85, R88). -/
theorem decodeResponse_wf (strict : Bool) (r : List Byte) :
    (decodeResponse strict r).wf = true ∧ (decodeResponse strict r = .rspBadCrc → strict = true) := by
  obtain rfl | ⟨h1, h4⟩ | ⟨slave, fc, b2, d0, d1, rest, rfl⟩ := response_shapes r
  · exact ⟨rfl, nofun⟩
  · rw [decodeResponse_short strict h1 h4]
    exact ⟨rfl, nofun⟩
  · rw [decodeResponse_long]
    split
    · next hbad => exact ⟨rfl, fun _ => (Bool.and_eq_true _ _ ▸ hbad).1⟩
    · obtain ⟨hwf, hne⟩ := decodeClass_wf slave fc b2 d0 d1 rest
      exact ⟨hwf, fun e => absurd e hne⟩

/-- The command code is reserved (R57, R107). -/
def ReservedCmd (c : Command) : Prop := c.cmd = 0x0 ∨ 0x9 ≤ c.cmd.toNat

/-- The command is `REQ.BUILD` with a function code outside the four (R55, R108). -/
def OtherFunctionCode (c : Command) : Prop := c.cmd = 0x4 ∧ c.fc ∉ [0x03, 0x04, 0x06, 0x10]

/-- No command is rejected for both reasons. -/
theorem ReservedCmd.not_otherFunctionCode {c : Command} (h : ReservedCmd c) : ¬ OtherFunctionCode c := by
  rintro ⟨hc, -⟩
  simp [ReservedCmd, hc] at h

/-- A command code of R57's table other than `REQ.BUILD`'s is not rejected. -/
theorem not_rejected_of_cmd {c : Command} {k : BitVec 4} (hc : c.cmd = k) (hk : k ≠ 0x0 ∧ k.toNat < 0x9 ∧ k ≠ 0x4) :
    ¬ ReservedCmd c ∧ ¬ OtherFunctionCode c := by
  obtain ⟨h0, h9, h4⟩ := hk
  exact ⟨not_or.mpr ⟨hc ▸ h0, hc ▸ Nat.not_le.mpr h9⟩, fun h => h4 (hc ▸ h.1)⟩

/-- Everything the decoder can answer (R55, R57): a well-formed instruction for a command that is not to be rejected, or
one of the two rejections. -/
theorem decode_cases (c : Command) (strict : Bool) (r : List Byte) :
    (∃ i, decode c strict r = .ok i ∧ i.wf = true ∧ (i = .rspBadCrc → strict = true)
        ∧ ¬ ReservedCmd c ∧ ¬ OtherFunctionCode c)
    ∨ (decode c strict r = .error .illegalCommand ∧ ReservedCmd c)
    ∨ (decode c strict r = .error .illegalFunctionCode ∧ OtherFunctionCode c) := by
  obtain ⟨d1, d2, d3, d4, d5, d6, d7, d8, d9⟩ := decode_by_cmd c strict r
  obtain hc | hc | hc | hc | hc | hc | hc | hc | hc := cmd_cases c.cmd
  · exact .inl ⟨_, d1 hc, rfl, nofun, not_rejected_of_cmd hc (by decide)⟩
  · exact .inl ⟨_, d2 hc, rfl, nofun, not_rejected_of_cmd hc (by decide)⟩
  · exact .inl ⟨_, d3 hc, rfl, nofun, not_rejected_of_cmd hc (by decide)⟩
  · have hnr : ¬ ReservedCmd c := by simp [ReservedCmd, hc]
    rw [d4 hc]
    obtain ⟨hf, e⟩ | ⟨hf, e⟩ | ⟨hf, e⟩ | ⟨hf, e⟩ | ⟨hf, e⟩ := decodeRequest_cases c
    · exact .inl ⟨_, e, rfl, nofun, hnr, by simp [OtherFunctionCode, hf]⟩
    · exact .inl ⟨_, e, rfl, nofun, hnr, by simp [OtherFunctionCode, hf]⟩
    · exact .inl ⟨_, e, rfl, nofun, hnr, by simp [OtherFunctionCode, hf]⟩
    · exact .inl ⟨_, e, rfl, nofun, hnr, by simp [OtherFunctionCode, hf]⟩
    · exact .inr (.inr ⟨e, hc, by simpa using hf⟩)
  · exact .inl ⟨_, d5 hc, rfl, nofun, not_rejected_of_cmd hc (by decide)⟩
  · exact .inl ⟨_, d6 hc, rfl, nofun, not_rejected_of_cmd hc (by decide)⟩
  · exact .inl ⟨_, d7 hc, rfl, nofun, not_rejected_of_cmd hc (by decide)⟩
  · obtain ⟨hwf, hstrict⟩ := decodeResponse_wf strict r
    exact .inl ⟨_, d8 hc, hwf, hstrict, not_rejected_of_cmd hc (by decide)⟩
  · exact .inr (.inl ⟨d9 hc, hc⟩)

/-- Settles O53: each of the three answers of `decode_cases` decides all four clauses. -/
theorem decoderAnswersAreWellFormed : Obligations.DecoderAnswersAreWellFormed := by
  intro c strict r
  change _ ∧ (_ ↔ ReservedCmd c) ∧ (_ ↔ OtherFunctionCode c) ∧ (_ ↔ ReservedCmd c ∨ OtherFunctionCode c)
  obtain ⟨i, e, hwf, hstrict, hr, hf⟩ | ⟨e, hr⟩ | ⟨e, hf⟩ := decode_cases c strict r
  · simpa [e, hwf, hr, hf] using hstrict
  · have hf := hr.not_otherFunctionCode
    simp [e, hr, hf]
  · have hr : ¬ ReservedCmd c := fun hr => hr.not_otherFunctionCode hf
    simp [e, hr, hf]

/-! ### The step of a command that decodes (R10, R57) -/

/-- Settles O3: the accepting branch of a command's step. -/
theorem stepRunsDecodedInstruction : Obligations.StepRunsDecodedInstruction := by
  intro s c rest i h hdec
  rw [step_command h, hdec]
  rfl

/-- A command that decodes to `i` completes as `i` does in the state with the event taken. -/
theorem commandCompletes_of_decode {c : Command} {rest : List HostEvent} {s : State} {i : Instr} {b : Block}
    {v : Returned} (hdec : decode c s.cfg.strictCrc s.blk.rxbuf = .ok i) (hi : Completes i (s.withHost rest) b v) :
    CommandCompletes c rest s b v :=
  fun h => (stepRunsDecodedInstruction s c rest i h hdec).trans hi

/-! ### Selectors of the opcode table (R57, log 8) -/

/-- Settles O54: the decoder evaluated at nine selectors. -/
theorem selectorsDecodeAsTheTableSays : Obligations.SelectorsDecodeAsTheTableSays := by
  unfold Obligations.SelectorsDecodeAsTheTableSays
  decide

/-- Only `RX.END` looks at `STRICT_CRC` and the received bytes. -/
theorem decode_congr_of_cmd_ne {c : Command} (h : c.cmd ≠ 0x8) (strict strict' : Bool) (r r' : List Byte) :
    decode c strict r = decode c strict' r' := by
  unfold decode
  rw [if_neg h, if_neg h]

/-- The response a selector stands for is classified alike under both values of `STRICT_CRC`. -/
theorem decodeResponse_tableResponse (w : Nat) (strict : Bool) :
    decodeResponse strict (tableResponse w) = decodeResponse false (tableResponse w) := by
  unfold tableResponse
  dsimp only
  split
  · rfl
  · rw [decodeResponse_frameOf, decodeResponse_frameOf]

/-- A selector decodes in the state it is placed in as it does by itself. -/
theorem decode_placeTableWord (w : Nat) (s : State) :
    decode (tableCommand w) (placeTableWord w s).cfg.strictCrc (placeTableWord w s).blk.rxbuf
      = decode (tableCommand w) false (tableResponse w) := by
  by_cases h : (tableCommand w).cmd = 0x8
  · have hrx : (placeTableWord w s).blk.rxbuf = tableResponse w := by simp [placeTableWord, tableReadsResponse, h]
    obtain ⟨-, -, -, -, -, -, -, hplaced, -⟩ :=
      decode_by_cmd (tableCommand w) (placeTableWord w s).cfg.strictCrc (tableResponse w)
    obtain ⟨-, -, -, -, -, -, -, halone, -⟩ := decode_by_cmd (tableCommand w) false (tableResponse w)
    rw [hrx, hplaced h, halone h, decodeResponse_tableResponse]
  · exact decode_congr_of_cmd_ne h ..

/-- A table word that decodes is its selector's decoding. -/
theorem decode_of_decodeTableWord {nbits w : Nat} {i : Instr} (h : decodeTableWord nbits w = some i) :
    decode (tableCommand (w % 2 ^ nbits)) false (tableResponse (w % 2 ^ nbits)) = .ok i := by
  unfold decodeTableWord at h
  dsimp only at h
  split at h
  · cases hd : decode (tableCommand (w % 2 ^ nbits)) false (tableResponse (w % 2 ^ nbits)) with
    | ok j => rw [hd] at h; exact congrArg _ (Option.some.inj h)
    | error k => rw [hd] at h; cases h
  · cases h

/-- Settles O55: the placed command stands first, and decodes in the placed state as the word does. -/
theorem placedWordIsTheNextInstruction : Obligations.PlacedWordIsTheNextInstruction := by
  intro s nbits w i h
  exact stepRunsDecodedInstruction (s.withFetchWord nbits w) _ s.host i rfl
    ((decode_placeTableWord _ s).trans (decode_of_decodeTableWord h))

/-! ### The frames of the requests (R46 to R48) -/

/-- The row `REQ.BUILD` is, by its function code (R53, R75). -/
theorem decode_by_fc {c : Command} (hc : c.cmd = 0x4) (strict : Bool) (r : List Byte) :
    (c.fc = 0x03 → decode c strict r = .ok (.reqRdh c.slave c.addr c.arg))
    ∧ (c.fc = 0x04 → decode c strict r = .ok (.reqRdi c.slave c.addr c.arg))
    ∧ (c.fc = 0x06 → decode c strict r = .ok (.reqWr1 c.slave c.addr c.arg))
    ∧ (c.fc = 0x10 → decode c strict r = .ok (.reqWrm c.slave c.addr c.vals)) := by
  obtain ⟨-, -, -, hreq, -⟩ := decode_by_cmd c strict r
  rw [hreq hc, decodeRequest]
  refine ⟨?_, ?_, ?_, ?_⟩ <;> intro hf <;> rw [hf] <;> rfl

/-- An instruction that loads the frame of a body completes with that frame to be popped from its start (R80). -/
theorem completes_of_exec_loadFrame {i : Instr} {s : State} {body : List Byte}
    (h : exec i s = .next (loadFrame body s)) :
    Completes i s { s.blk with txbuf := frameOf body, txptr := 0, crc := crcAcc body } .nothing := h

/-- Settles O17: the body is `twoFieldBody` with the function code of the row, which `REQ.BUILD` dispatches to. -/
theorem readRequestsBuildFrames : Obligations.ReadRequestsBuildFrames := by
  intro s slave addr count body built
  have hrdh (t : State) : Completes (.reqRdh slave addr count) t _ .nothing := completes_of_exec_loadFrame rfl
  have hrdi (t : State) : Completes (.reqRdi slave addr count) t _ .nothing := completes_of_exec_loadFrame rfl
  refine ⟨hrdh s, hrdi s, ?_⟩
  rintro c rest hc rfl rfl rfl hf
  obtain ⟨h3, h4, -, -⟩ := decode_by_fc hc s.cfg.strictCrc s.blk.rxbuf
  obtain hf | hf := hf
  · rw [hf]; exact commandCompletes_of_decode (h3 hf) (hrdh _)
  · rw [hf]; exact commandCompletes_of_decode (h4 hf) (hrdi _)

/-- Settles O18: as for the read requests, with function code 0x06. -/
theorem writeSingleBuildsFrame : Obligations.WriteSingleBuildsFrame := by
  intro s slave addr value body built
  have hwr1 (t : State) : Completes (.reqWr1 slave addr value) t _ .nothing := completes_of_exec_loadFrame rfl
  refine ⟨hwr1 s, ?_⟩
  rintro c rest hc hf rfl rfl rfl
  obtain ⟨-, -, h6, -⟩ := decode_by_fc hc s.cfg.strictCrc s.blk.rxbuf
  exact commandCompletes_of_decode (h6 hf) (hwr1 _)

/-! ### The exception-code map (R60) -/

/-- `EXKNOWN` is membership in the map's seven codes. -/
theorem exKnown_iff (code : Byte) : exKnown code = true ↔ code.toNat ∈ [1, 2, 3, 4, 5, 6, 8] := by
  simp [exKnown, ← BitVec.toNat_inj, or_assoc]

/-- `EXKNOWN` as `parse_response` writes it (R90). -/
theorem exKnown_eq_decide_mem (code : Byte) : exKnown code = decide (code ∈ [1, 2, 3, 4, 5, 6, 8]) := by
  simp [exKnown, Bool.or_assoc, beq_eq_decide]

/-- A code the map does not name is an unknown error (R60). -/
theorem exceptionKind_of_not_exKnown {code : Byte} (h : ¬ exKnown code = true) :
    exceptionKind code = .unknownError code := by
  simp only [exKnown, Bool.or_eq_true, beq_iff_eq, not_or] at h
  obtain ⟨⟨⟨⟨⟨⟨h1, h2⟩, h3⟩, h4⟩, h5⟩, h6⟩, h8⟩ := h
  rw [exceptionKind, if_neg h1, if_neg h2, if_neg h3, if_neg h4, if_neg h5, if_neg h6, if_neg h8]

/-- Settles O38: the seven rows of the map, and every other code. -/
theorem exceptionCodeMap : Obligations.ExceptionCodeMap := by
  refine ⟨rfl, rfl, rfl, rfl, rfl, rfl, rfl, fun code => (exKnown_iff code).mpr, fun code h => ?_⟩
  have hk : ¬ exKnown code = true := mt (exKnown_iff code).mp h
  exact ⟨exceptionKind_of_not_exKnown hk, by simpa using hk⟩

/-! ### The frame of a multiple write, by index (R48) -/

/-- Value `k` of a multiple write stands at the two bytes `2k`, `2k + 1` of the values, high byte first (R31). -/
theorem flatMap_fieldBytes_getElem? : ∀ (vals : List Word) (k : Nat) (v : Word), vals[k]? = some v →
    (vals.flatMap fieldBytes)[2 * k]? = some (hi8 v) ∧ (vals.flatMap fieldBytes)[2 * k + 1]? = some (lo8 v)
  | [], _, _, h => by simp at h
  | w :: vals, 0, v, h => by
    obtain rfl : w = v := by simpa using h
    exact ⟨rfl, rfl⟩
  | w :: vals, k + 1, v, h => by
    have ih := flatMap_fieldBytes_getElem? vals k v (by simpa using h)
    simpa [fieldBytes, Nat.mul_add] using ih

/-- A body stands in its frame as it is. -/
theorem frameOf_getElem?_of_lt {body : List Byte} {i : Nat} (h : i < body.length) : (frameOf body)[i]? = body[i]? :=
  List.getElem?_append_left h

/-- The trailer of a frame is the CRC of its body, low byte first (R32). -/
theorem frameOf_getElem?_trailer (body : List Byte) :
    (frameOf body)[body.length]? = some (lo8 (crcAcc body)) ∧
      (frameOf body)[body.length + 1]? = some (hi8 (crcAcc body)) := by
  constructor <;> simp [frameOf, crc16, crcWire]

@[simp] theorem frameOf_take_length (body : List Byte) : (frameOf body).take body.length = body := List.take_left

/-- Value `k` in the body of a multiple write stands after the seven header bytes (R48). -/
theorem writeMultipleBody_getElem?_value {vals : List Word} {k : Nat} {v : Word} (h : vals[k]? = some v) (slave : Byte)
    (addr : Word) : (writeMultipleBody slave addr vals)[7 + 2 * k]? = some (hi8 v)
      ∧ (writeMultipleBody slave addr vals)[8 + 2 * k]? = some (lo8 v) := by
  obtain ⟨hhi, hlo⟩ := flatMap_fieldBytes_getElem? vals k v h
  have e7 : 7 + 2 * k = 2 * k + 7 := by omega
  have e8 : 8 + 2 * k = 2 * k + 1 + 7 := by omega
  rw [e7, e8]
  exact ⟨hhi, hlo⟩

/-- A count below 256 has a zero high byte. -/
theorem hi8_ofNat_of_lt {n : Nat} (h : n < 256) : hi8 (BitVec.ofNat 16 n) = 0 := by
  apply BitVec.eq_of_toNat_eq
  simp [hi8, Nat.shiftRight_eq_div_pow]
  omega

theorem lo8_ofNat (n : Nat) : lo8 (BitVec.ofNat 16 n) = BitVec.ofNat 8 n := by
  apply BitVec.eq_of_toNat_eq
  simp [lo8]

/-- Settles O20: the frame is that of `writeMultipleBody`: seven header bytes, two bytes per value, the trailer. -/
theorem writeMultipleFrameByIndex : Obligations.WriteMultipleFrameByIndex := by
  intro s slave addr vals hcfg hn
  obtain ⟨hbytes, -⟩ := (config_wf_iff s.cfg).mp hcfg
  have hexec : exec (.reqWrm slave addr vals) s = .next (loadFrame (writeMultipleBody slave addr vals) s) :=
    if_neg (Nat.not_lt.mpr hn)
  have hlen : (writeMultipleBody slave addr vals).length = 7 + 2 * vals.length := writeMultipleBody_length ..
  have hin {i : Nat} (h : i < 7 + 2 * vals.length) :
      (frameOf (writeMultipleBody slave addr vals))[i]? = (writeMultipleBody slave addr vals)[i]? :=
    frameOf_getElem?_of_lt (hlen ▸ h)
  obtain ⟨hlo, hhi⟩ := frameOf_getElem?_trailer (writeMultipleBody slave addr vals)
  have htake := frameOf_take_length (writeMultipleBody slave addr vals)
  rw [hlen] at hlo hhi htake
  have e8 : 8 + 2 * vals.length = 7 + 2 * vals.length + 1 := by omega
  refine ⟨_, hexec, ?_⟩
  simp only [loadFrame_blk, htake]
  refine ⟨?_, hin (by omega), hin (by omega), hin (by omega), hin (by omega), ?_, ?_, hin (by omega), ?_, hlo, e8 ▸ hhi⟩
  · show (frameOf _).length = _
    rw [frameOf_length, hlen]; omega
  · rw [hin (by omega)]
    exact congrArg some (hi8_ofNat_of_lt (by omega))
  · rw [hin (by omega)]
    exact congrArg some (lo8_ofNat _)
  · intro k v hv
    have hk : k < vals.length := (List.getElem?_eq_some_iff.mp hv).1
    rw [hin (by omega), hin (by omega)]
    exact writeMultipleBody_getElem?_value hv slave addr

/-! ### Runs of commands (R59) -/

/-- The step of a command issued for an instruction that completes: the next state, field by field. -/
theorem step_issue_completes {s : State} {i : Instr} {rest : List HostEvent} {b : Block} {v : Returned}
    (hdec : ∀ strict r, decode (encode i).command strict r = .ok i) (h : s.host = issue i :: rest)
    (hi : Completes i (s.withHost rest) b v) :
    ∃ u, step s = .next u ∧ u.blk = { b with exc := 0 } ∧ u.cfg = s.cfg ∧ u.host = rest
      ∧ u.done = s.done ++ [{ exc := 0, value := v }] :=
  ⟨_, (stepRunsDecodedInstruction s _ rest i h (hdec _ _)).trans hi, rfl, rfl, rfl, rfl⟩

/-- `CRC.UPD` commands after a completed command absorb their bytes and change nothing else of the block (R68). -/
theorem run_crcUpds (bytes : List Byte) {s : State} {rest : List HostEvent} (hexc : s.blk.exc = 0)
    (h : s.host = bytes.map (fun b => issue (.crcUpd b)) ++ rest) :
    ∃ t, (∀ k, run (bytes.length + k) s = run k t) ∧ t.blk = { s.blk with crc := bytes.foldl crcByte s.blk.crc }
      ∧ t.host = rest := by
  induction bytes generalizing s with
  | nil => exact ⟨s, fun k => by simp, rfl, h⟩
  | cons b bytes ih =>
    obtain ⟨u, hstep, hublk, -, huhost, -⟩ := step_issue_completes (i := .crcUpd b)
      (b := { s.blk with crc := crcByte s.blk.crc b }) (v := .nothing) (fun _ _ => rfl) h rfl
    obtain ⟨t, hrun, hblk, hhost⟩ := ih (s := u) (by rw [hublk]) huhost
    refine ⟨t, fun k => ?_, ?_, hhost⟩
    · rw [List.length_cons, Nat.add_right_comm, run_succ hstep, hrun]
    · rw [hblk, hublk, ← hexc]; rfl

/-- Settles O15: `CRC.INIT`, the updates of `run_crcUpds`, `CRC.EMIT`. -/
theorem crc16PseudoCommand : Obligations.Crc16PseudoCommand := by
  intro s bytes rest h
  have h' : s.host = issue .crcInit :: (bytes.map (fun b => issue (.crcUpd b)) ++ issue .crcEmit :: rest) := by
    simpa [pseudoCrc16] using h
  obtain ⟨u, hinit, hublk, -, huhost, -⟩ := step_issue_completes (i := .crcInit)
    (b := { s.blk with crc := crcInitValue }) (v := .nothing) (fun _ _ => rfl) h' rfl
  obtain ⟨t, hrun, hblk, hhost⟩ := run_crcUpds bytes (s := u) (by rw [hublk]) huhost
  obtain ⟨w, hemit, hwblk, -, hwhost, hwdone⟩ := step_issue_completes (i := .crcEmit)
    (b := t.blk) (v := .pair (lo8 t.blk.crc) (hi8 t.blk.crc)) (fun _ _ => rfl) hhost rfl
  have hcrc : t.blk.crc = crcAcc bytes := by rw [hblk, hublk]; rfl
  refine ⟨w, lo8 t.blk.crc, hi8 t.blk.crc, ?_, ?_, hwhost, by simp [hwdone], by rw [hcrc]; rfl⟩
  · rw [run_succ hinit, hrun, run_succ hemit, run_zero]
  · rw [hwblk, hblk, hublk]; rfl

/-- As many `TX.POP` commands as bytes are left return those bytes in order (R100). -/
theorem run_txPops (m : Nat) {s : State} {rest : List HostEvent} (hm : s.blk.txptr + m = s.blk.txbuf.length)
    (h : s.host = pseudoTxDrain m ++ rest) :
    ∃ t, run m s = .next t
      ∧ t.done = s.done ++ (s.blk.txbuf.drop s.blk.txptr).map (fun b => { exc := 0, value := .byte b })
      ∧ t.blk.txptr = s.blk.txbuf.length ∧ t.blk.txbuf = s.blk.txbuf ∧ t.blk.flt = s.blk.flt ∧ t.host = rest := by
  induction m generalizing s with
  | zero =>
    have hnone : s.blk.txbuf.drop s.blk.txptr = [] := List.drop_of_length_le hm.ge
    exact ⟨s, rfl, by simp [hnone], hm, rfl, rfl, h⟩
  | succ m ih =>
    have hlt : s.blk.txptr < s.blk.txbuf.length := by omega
    have hpop (rest : List HostEvent) : Completes .txPop (s.withHost rest)
        { s.blk with txptr := s.blk.txptr + 1 } (.byte s.blk.txbuf[s.blk.txptr]) := by
      simp [Completes, exec, execTxPop, memRead, hlt, complete]
    obtain ⟨u, hstep, hublk, -, huhost, hudone⟩ := step_issue_completes (fun _ _ => rfl) h (hpop _)
    obtain ⟨t, hrun, hdone, hptr, hbuf, hflt, hhost⟩ := ih (s := u) (by rw [hublk]; dsimp only; omega) huhost
    rw [hublk] at hdone hptr hbuf hflt
    refine ⟨t, by rw [run_succ hstep, hrun], ?_, hptr, hbuf, hflt, hhost⟩
    rw [hdone, hudone, List.drop_eq_getElem_cons hlt, List.map_cons, List.append_assoc, List.singleton_append]

/-- Settles O24: `TXAVAIL` pops, with the frame in place throughout. -/
theorem txDrainYieldsTheFrame : Obligations.TxDrainYieldsTheFrame := by
  intro s rest hle h
  obtain ⟨t, hrun, hdone, hptr, hbuf, hflt, hhost⟩ := run_txPops s.blk.txAvail (Nat.add_sub_cancel' hle) h
  exact ⟨t, hrun, hdone, by rw [hptr, Block.txLen, hbuf], hbuf, hflt, hhost⟩

/-- `RX.PUSH` commands that find room, after a completed command, append their bytes and change nothing else of the
block (R101). -/
theorem run_rxPushes (bytes : List Byte) {s : State} {rest : List HostEvent} (hexc : s.blk.exc = 0)
    (hroom : s.blk.rxbuf.length + bytes.length ≤ s.cfg.rxMax)
    (h : s.host = bytes.map (fun b => issue (.rxPush b)) ++ rest) :
    ∃ t, (∀ k, run (bytes.length + k) s = run k t) ∧ t.blk = { s.blk with rxbuf := s.blk.rxbuf ++ bytes }
      ∧ t.cfg = s.cfg ∧ t.host = rest := by
  induction bytes generalizing s with
  | nil => exact ⟨s, fun k => by simp, by simp, rfl, h⟩
  | cons b bytes ih =>
    rw [List.length_cons] at hroom
    have hpush (rest : List HostEvent) : Completes (.rxPush b) (s.withHost rest)
        { s.blk with rxbuf := memAppend s.blk.rxbuf b } .nothing :=
      if_neg (show ¬ s.cfg.rxMax ≤ s.blk.rxbuf.length by omega)
    obtain ⟨u, hstep, hublk, hucfg, huhost, -⟩ := step_issue_completes (fun _ _ => rfl) h (hpush _)
    obtain ⟨t, hrun, hblk, hcfg, hhost⟩ := ih (s := u) (by rw [hublk])
      (by rw [hublk, hucfg, memAppend_length]; omega) huhost
    refine ⟨t, fun k => ?_, ?_, hcfg.trans hucfg, hhost⟩
    · rw [List.length_cons, Nat.add_right_comm, run_succ hstep, hrun]
    · rw [hblk, hublk, ← hexc]; simp [memAppend]

/-! ### The decoder and the class meanings compute `parse_response` (R97) -/

/-- The last two bytes of a response, by index (R88). -/
theorem drop_length_sub_two {r : List Byte} (h : 2 ≤ r.length) :
    r.drop (r.length - 2) = [byteAt r (r.length - 2), byteAt r (r.length - 1)] := by
  rw [List.drop_eq_getElem_cons (by omega), List.drop_eq_getElem_cons (by omega), List.drop_of_length_le (by omega)]
  have e : r.length - 2 + 1 = r.length - 1 := by omega
  simp [byteAt, e, show r.length - 2 < r.length by omega, show r.length - 1 < r.length by omega]

/-- The registers of a data window by index in the response (R91). -/
theorem windowRegs_dataWindow (slave fc b2 : Byte) (tail : List Byte) :
    windowRegs (dataWindow b2 tail) = parseRegs (slave :: fc :: b2 :: tail) := by
  have hlen : (dataWindow b2 tail).length = min b2.toNat tail.length := List.length_take
  have hcount : regCount (slave :: fc :: b2 :: tail) = (dataWindow b2 tail).length / 2 := by
    rw [hlen]; rfl
  have hbyte {j : Nat} (hj : j < (dataWindow b2 tail).length) :
      (dataWindow b2 tail)[j]? = some (byteAt (slave :: fc :: b2 :: tail) (j + 3)) := by
    rw [hlen] at hj
    have hj' : j < tail.length := by omega
    simp [dataWindow, byteAt, hj', show j < b2.toNat by omega]
  apply List.ext_getElem?
  intro k
  by_cases hk : k < (dataWindow b2 tail).length / 2
  · rw [windowRegs_getElem? _ k _ _ (hbyte (j := 2 * k) (by omega)) (hbyte (j := 2 * k + 1) (by omega))]
    have e3 : 3 + 2 * k = 2 * k + 3 := by omega
    have e4 : 4 + 2 * k = 2 * k + 1 + 3 := by omega
    simp [parseRegs, hcount, hk, e3, e4]
  · rw [List.getElem?_eq_none (by simpa using hk), List.getElem?_eq_none (by simpa [parseRegs, hcount] using hk)]

/-- The result a parse writes: `RES` and `RREG` (R97). -/
def Parsed.result (p : Parsed) : ResultRecord × List Word :=
  ({ kind := p.kind, slave := p.slave, fc := p.fc, code := p.code, exknown := p.exknown, bc := p.bc }, p.regs)

/-- `parse_response` on 5 or more bytes: the CRC test, then the function code (R85, S2 to S8). -/
theorem parseResponse_long (strict : Bool) (slave fc b2 d0 d1 : Byte) (rest : List Byte) :
    (parseResponse (slave :: fc :: b2 :: d0 :: d1 :: rest) strict).result
      = if strict && !trailerOk (slave :: fc :: b2 :: d0 :: d1 :: rest) then ({ kind := .badCrc }, [])
        else classResult (decodeClass slave fc b2 (d0 :: d1 :: rest)) := by
  have hregs := windowRegs_dataWindow slave fc b2 (d0 :: d1 :: rest)
  have h5 : 5 ≤ (slave :: fc :: b2 :: d0 :: d1 :: rest).length := by simp
  have h0 : byteAt (slave :: fc :: b2 :: d0 :: d1 :: rest) 0 = slave := rfl
  have h1 : byteAt (slave :: fc :: b2 :: d0 :: d1 :: rest) 1 = fc := rfl
  have h2 : byteAt (slave :: fc :: b2 :: d0 :: d1 :: rest) 2 = b2 := rfl
  generalize slave :: fc :: b2 :: d0 :: d1 :: rest = r at *
  have htest : (strict && !trailerOk r) = true ↔
      strict = true ∧ [byteAt r (r.length - 2), byteAt r (r.length - 1)] ≠ crc16 (r.take (r.length - 2)) := by
    rw [Bool.and_eq_true, Bool.not_eq_true', ← Bool.not_eq_true, trailerOk_iff, drop_length_sub_two (by omega)]
  unfold parseResponse
  simp only [htest, h0, h1, h2, show r.length ≠ 0 by omega, show ¬ r.length < 5 by omega, if_false]
  split
  · rfl
  · obtain ⟨h, e⟩ | ⟨h, e⟩ | ⟨h, e⟩ | ⟨h, e⟩ | ⟨h, e⟩ | ⟨h, e⟩ := decodeClass_cases slave fc b2 (d0 :: d1 :: rest)
    all_goals rw [e]
    · rw [if_pos ((isErrorFc_iff fc).mp h)]
      simp only [Parsed.result, classResult, exKnown_eq_decide_mem]
    · subst h
      simp [Parsed.result, classResult, hregs]
    · subst h
      simp [Parsed.result, classResult, hregs]
    · subst h
      simp [Parsed.result, classResult]
    · subst h
      simp [Parsed.result, classResult]
    · obtain ⟨herr, h3, h4, h6, h10⟩ := (isRawFc_iff fc).mp h
      rw [if_neg (mt (isErrorFc_iff fc).mpr herr),
        if_neg (show ¬ (fc = 0x03 ∨ fc = 0x04) from not_or.mpr ⟨h3, h4⟩),
        if_neg (show ¬ (fc = 0x06 ∨ fc = 0x10) from not_or.mpr ⟨h6, h10⟩)]
      rfl

/-- The decoder and the class meanings compute `parse_response` (R97). -/
theorem classResult_decodeResponse (strict : Bool) (r : List Byte) :
    classResult (decodeResponse strict r) = (parseResponse r strict).result := by
  obtain rfl | ⟨hone, hfour⟩ | ⟨slave, fc, b2, d0, d1, rest, rfl⟩ := response_shapes r
  · rfl
  · rw [decodeResponse_short strict hone hfour]
    simp [parseResponse, show r ≠ [] by rintro rfl; simp at hone, show r.length < 5 by omega]
    rfl
  · rw [parseResponse_long, decodeResponse_long]
    split <;> rfl

@[simp] theorem writeResult_host (res : ResultRecord) (regs : List Word) (crc : Word) (s : State) :
    (writeResult res regs crc s).host = s.host := rfl

/-- The step of `RX.END` (R85): the result of the received bytes is written. -/
theorem step_rxEnd {s : State} {rest : List HostEvent} (h : s.host = issueRxEnd :: rest) :
    step s = .next (writeResult (parseResponse s.blk.rxbuf s.cfg.strictCrc).result.1
      (parseResponse s.blk.rxbuf s.cfg.strictCrc).result.2 (crcAfterTest s) (s.withHost rest)) := by
  rw [stepRunsDecodedInstruction s _ rest _ h rfl, ← classResult_decodeResponse]
  exact exec_decodeResponse (s.withHost rest)

/-- Settles O39: `RX.FLUSH`, the pushes of `run_rxPushes`, `RX.END`. -/
theorem rxFrameParsesItsBytes : Obligations.RxFrameParsesItsBytes := by
  intro s bytes rest hlen h
  have h' : s.host = issue .rxFlush :: (bytes.map (fun b => issue (.rxPush b)) ++ issueRxEnd :: rest) := by
    simpa [pseudoRxFrame] using h
  obtain ⟨u, hflush, hublk, hucfg, huhost, -⟩ := step_issue_completes (i := .rxFlush)
    (b := { s.blk with rxbuf := [] }) (v := .nothing) (fun _ _ => rfl) h' rfl
  obtain ⟨t, hrun, hblk, hcfg, hhost⟩ := run_rxPushes bytes (s := u) (by rw [hublk])
    (by rw [hublk, hucfg]; simpa using hlen) huhost
  have htblk : t.blk = { s.blk with rxbuf := bytes, exc := 0 } := by rw [hblk, hublk]; rfl
  have hend := step_rxEnd hhost
  rw [htblk, hcfg, hucfg] at hend
  refine ⟨_, (run_succ hflush _).trans ((hrun 1).trans (run_succ hend 0)), ?_⟩
  simp [htblk, Parsed.result]

end Sys2Proof.Machine
end

section
/-! PROOFS. The statements of spec/40_crc.md. One iteration `crc_bit` is linear and on a low bit 0 only shifts; the table
form, the residue and the linearity of `crc_acc` follow from these two facts. The interleaving of R71 is an induction over
the commands issued, each with its effect on `CRC` and `RXLEN`. -/

namespace Sys2Proof.Machine

/-! ### One iteration (R65) -/

theorem crcBit_of_low_bit_clear {a : Word} (h : a.getLsbD 0 = false) : crcBit a = a >>> 1 :=
  if_neg (Bool.not_eq_true _ ▸ h)

theorem crcBit_of_low_bit_set {a : Word} (h : a.getLsbD 0 = true) : crcBit a = (a >>> 1) ^^^ crcPoly := if_pos h

/-- The polynomial's bits (R4): 0, 13 and 15. -/
theorem crcPoly_getLsbD {i : Nat} (hi : i < 16) : crcPoly.getLsbD i = decide (i = 0 ∨ i = 13 ∨ i = 15) := by
  revert i
  decide

/-- An iteration bit by bit (R65). -/
theorem crcBit_getLsbD (a : Word) {i : Nat} (hi : i < 16) :
    (crcBit a).getLsbD i = (a.getLsbD (i + 1) ^^ (a.getLsbD 0 && (i = 0 ∨ i = 13 ∨ i = 15))) := by
  cases h : a.getLsbD 0 with
  | false => simp [crcBit_of_low_bit_clear h, Nat.add_comm]
  | true => simp [crcBit_of_low_bit_set h, crcPoly_getLsbD hi, Nat.add_comm]

/-- Linearity of an iteration (R72 (d)): the polynomials of two set low bits cancel. -/
theorem crcBit_xor (x y : Word) : crcBit (x ^^^ y) = crcBit x ^^^ crcBit y := by
  apply BitVec.eq_of_getLsbD_eq
  intro i hi
  rw [BitVec.getLsbD_xor, crcBit_getLsbD _ hi, crcBit_getLsbD _ hi, crcBit_getLsbD _ hi, BitVec.getLsbD_xor,
    BitVec.getLsbD_xor, Bool.and_xor_distrib_right]
  simp only [Bool.xor_assoc, Bool.xor_left_comm]

/-- Iterations on an accumulator whose dropped bits are all 0 only shift. -/
theorem crcBit_iterate_of_low_bits_clear {n : Nat} {a : Word} (h : ∀ i < n, a.getLsbD i = false) :
    crcBit^[n] a = a >>> n := by
  induction n generalizing a with
  | zero => simp
  | succ n ih =>
    have hshift : ∀ i < n, (a >>> 1).getLsbD i = false := fun i hi => by
      rw [BitVec.getLsbD_ushiftRight]
      exact h _ (by omega)
    rw [Function.iterate_succ_apply, crcBit_of_low_bit_clear (h 0 n.succ_pos), ih hshift, ← BitVec.shiftRight_add,
      Nat.add_comm]

theorem crcBit_iterate_xor (n : Nat) (x y : Word) : crcBit^[n] (x ^^^ y) = crcBit^[n] x ^^^ crcBit^[n] y := by
  induction n generalizing x y with
  | zero => rfl
  | succ n ih => rw [Function.iterate_succ_apply, crcBit_xor, ih]; rfl

/-! ### One byte (R66, R72) -/

theorem crcByte_eq_iterate (a : Word) (b : Byte) : crcByte a b = crcBit^[8] (a ^^^ b.setWidth 16) := rfl

/-- A byte does not reach the high byte of the accumulator. -/
theorem xor_setWidth_shiftRight_eight (a : Word) (b : Byte) : (a ^^^ b.setWidth 16) >>> 8 = a >>> 8 := by
  apply BitVec.eq_of_getLsbD_eq
  intro i hi
  simp

/-- Absorbing an accumulator's own low byte clears it, so the eight iterations only bring the high byte down. -/
theorem crcByte_lo8 (x : Word) : crcByte x (lo8 x) = x >>> 8 := by
  have hclear : ∀ i < 8, (x ^^^ (lo8 x).setWidth 16).getLsbD i = false := fun i hi => by
    simp [lo8, hi, show i < 16 by omega]
  rw [crcByte_eq_iterate, crcBit_iterate_of_low_bits_clear hclear, xor_setWidth_shiftRight_eight]

/-- Eight iterations (R72 (b)): the high byte comes down unchanged, the low byte goes through the table. -/
theorem crcBit_iterate_eight (x : Word) : crcBit^[8] x = (x >>> 8) ^^^ crcBit^[8] ((lo8 x).setWidth 16) :=
  calc crcBit^[8] x = crcBit^[8] (x ^^^ (lo8 x).setWidth 16 ^^^ (lo8 x).setWidth 16) := by
        rw [BitVec.xor_assoc, BitVec.xor_self, BitVec.xor_zero]
    _ = crcByte x (lo8 x) ^^^ crcBit^[8] ((lo8 x).setWidth 16) := crcBit_iterate_xor ..
    _ = (x >>> 8) ^^^ crcBit^[8] ((lo8 x).setWidth 16) := by rw [crcByte_lo8]

/-- Absorbing a byte is linear in accumulator and byte together. -/
theorem crcByte_xor (a a' : Word) (b b' : Byte) :
    crcByte (a ^^^ a') (b ^^^ b') = crcByte a b ^^^ crcByte a' b' := by
  simp only [crcByte_eq_iterate, ← crcBit_iterate_xor, BitVec.setWidth_xor]
  congr 1
  ac_rfl

theorem shiftRight_eight_eq_hi8 (x : Word) : x >>> 8 = (hi8 x).setWidth 16 := by
  apply BitVec.eq_of_getLsbD_eq
  intro i hi
  by_cases h : i < 8
  · simp [hi8, h, hi]
  · simp [hi8, h, BitVec.getLsbD_of_ge x (8 + i) (by omega)]

/-- Absorbing the low byte of an accumulator whose high byte is 0 leaves 0. -/
theorem crcByte_setWidth_self (b : Byte) : crcByte (b.setWidth 16) b = 0 := by
  rw [crcByte_eq_iterate, BitVec.xor_self]
  rfl

/-! ### A sequence (R70, R72) -/

/-- The fold is linear in its start and its bytes together. -/
theorem foldl_crcByte_zipWith_xor {s t : List Byte} (h : s.length = t.length) (a a' : Word) :
    (List.zipWith (· ^^^ ·) s t).foldl crcByte (a ^^^ a') = s.foldl crcByte a ^^^ t.foldl crcByte a' := by
  induction s generalizing t a a' with
  | nil =>
    obtain rfl := List.length_eq_zero_iff.mp h.symm
    rfl
  | cons b s ih =>
    obtain ⟨b', t, rfl⟩ := List.exists_cons_of_length_eq_add_one h.symm
    simp only [List.zipWith_cons_cons, List.foldl_cons, crcByte_xor]
    exact ih (Nat.succ.inj h) _ _

/-- Settles O12: `crcBit_iterate_eight`, where the byte stays out of the high byte. -/
theorem crcTableForm : Obligations.CrcTableForm := by
  intro a b
  rw [crcByte_eq_iterate, crcBit_iterate_eight, xor_setWidth_shiftRight_eight]
  rfl

/-- Settles O13: the low byte leaves the high byte, and the high byte leaves 0. -/
theorem crcResidueIsZero : Obligations.CrcResidueIsZero := by
  intro s
  calc crcAcc (s ++ crc16 s)
      = crcByte (crcByte (crcAcc s) (lo8 (crcAcc s))) (hi8 (crcAcc s)) := crcAcc_append ..
    _ = 0 := by rw [crcByte_lo8, shiftRight_eight_eq_hi8, crcByte_setWidth_self]

/-- Settles O14: the two starts 0xFFFF of the folds cancel. -/
theorem crcIsLinear : Obligations.CrcIsLinear := by
  refine ⟨crcBit_xor, fun s t h => ?_⟩
  have hfold := foldl_crcByte_zipWith_xor h crcInitValue crcInitValue
  rw [BitVec.xor_self] at hfold
  exact hfold.symm

/-- Settles O7: the branches of an iteration, its bits, and the eight iterations. -/
theorem crcBitAndByteFollowTheLoop : Obligations.CrcBitAndByteFollowTheLoop :=
  ⟨fun _ => crcBit_of_low_bit_clear, fun _ => crcBit_of_low_bit_set, fun a _ => crcBit_getLsbD a, crcByte_eq_iterate⟩

/-- Settles O8: `crcAcc_append` at one byte; `crc16` is the accumulator as it stands on the wire. -/
theorem crcAccIsLeftFold : Obligations.CrcAccIsLeftFold :=
  ⟨crcAcc_nil, fun s b => crcAcc_append s [b], fun _ => rfl⟩

/-! ### The CRC commands (R67 to R69) -/

/-- Settles O9: the meaning of `CRC.INIT` in every state, and command code 0x1 decodes to it. -/
theorem crcInitLoadsFFFF : Obligations.CrcInitLoadsFFFF := by
  intro s
  have hinit (t : State) : Completes .crcInit t { t.blk with crc := 0xFFFF } .nothing := rfl
  refine ⟨hinit s, fun c rest hc => ?_⟩
  obtain ⟨hdec, -⟩ := decode_by_cmd c s.cfg.strictCrc s.blk.rxbuf
  exact commandCompletes_of_decode (hdec hc) (hinit _)

/-- Settles O10: the meaning of `CRC.UPD`, which code 0x2 decodes to with the command's own byte. -/
theorem crcUpdAbsorbsByte : Obligations.CrcUpdAbsorbsByte := by
  intro s
  have hupd (t : State) (b : Byte) :
      Completes (.crcUpd b) t { t.blk with crc := crcByte t.blk.crc b } .nothing := rfl
  refine ⟨hupd s, fun c rest hc => ?_⟩
  obtain ⟨-, hdec, -⟩ := decode_by_cmd c s.cfg.strictCrc s.blk.rxbuf
  exact commandCompletes_of_decode (hdec hc) (hupd _ _)

/-- Settles O11: the meaning of `CRC.EMIT`; `lo8` and `hi8` are the two byte fields. -/
theorem crcEmitReturnsLowThenHigh : Obligations.CrcEmitReturnsLowThenHigh := by
  intro s
  have hemit (t : State) : Completes .crcEmit t t.blk (.pair (lo8 t.blk.crc) (hi8 t.blk.crc)) := rfl
  refine ⟨hemit s, fun c rest hc => ?_⟩
  obtain ⟨-, -, hdec, -⟩ := decode_by_cmd c s.cfg.strictCrc s.blk.rxbuf
  exact commandCompletes_of_decode (hdec hc) (hemit _)

/-! ### Commands between the bytes of one computation (R71, R122) -/

/-- Every instruction has a next state (R128). -/
theorem exists_exec_eq_next (i : Instr) (s : State) : ∃ t, exec i s = .next t := by
  cases i with
  | reqWrm slave addr vals =>
    simp only [exec, execReqWrm]
    split <;> exact ⟨_, rfl⟩
  | txPop =>
    simp only [exec, execTxPop]
    split <;> exact ⟨_, rfl⟩
  | rxPush b =>
    simp only [exec, execRxPush]
    split <;> exact ⟨_, rfl⟩
  | _ => exact ⟨_, rfl⟩

/-- Every command has a next state (R128). -/
theorem exists_step_command_eq_next {s : State} {c : Command} {rest : List HostEvent}
    (h : s.host = .command c :: rest) : ∃ t, step s = .next t := by
  rw [step_command h]
  split
  · exact exists_exec_eq_next ..
  · exact ⟨_, rfl⟩

/-- A command takes its event and leaves the configuration. -/
theorem step_command_host_cfg {s t : State} {c : Command} {rest : List HostEvent} (h : s.host = .command c :: rest)
    (ht : step s = .next t) : t.host = rest ∧ t.cfg = s.cfg := by
  obtain ⟨k, -, rfl⟩ | ⟨b, v, rfl, -⟩ := step_command_raises_or_completes h ht <;> simp

/-- A command that is neither an `RX.PUSH` that finds room nor an `RX.FLUSH` leaves `RXLEN` (R13). -/
theorem rxLenAfter_eq_self {cfg : Config} {c : Command} {rxLen : Nat} (hpush : c.cmd = 0x6 → cfg.rxMax ≤ rxLen)
    (hflush : c.cmd ≠ 0x7) : rxLenAfter cfg c rxLen = rxLen := by
  rw [rxLenAfter, if_neg fun h => absurd (hpush h.1) (Nat.not_le_of_lt h.2), if_neg hflush]

/-- A command that raises leaves `RXLEN`. -/
theorem RaisedBy.rxLenAfter_eq {c : Command} {s : State} {k : CmdException} (h : RaisedBy c s k) :
    rxLenAfter s.cfg c s.blk.rxLen = s.blk.rxLen := by
  obtain ⟨-, -, -, hflush, -⟩ := h.cmd_ne
  refine rxLenAfter_eq_self (fun hc => ?_) hflush
  cases h with
  | illegalCommand h => rw [hc] at h; simp at h
  | illegalFunctionCode h | badCount h | txEmpty h => rw [hc] at h; cases h
  | rxOverrun _ hfull => exact hfull

/-- `RXLEN` after a command's step (R13). -/
theorem step_command_rxLen {s t : State} {c : Command} {rest : List HostEvent} (h : s.host = .command c :: rest)
    (ht : step s = .next t) : t.blk.rxLen = rxLenAfter s.cfg c s.blk.rxLen := by
  obtain ⟨k, hk, rfl⟩ | ⟨hc, rfl⟩ | ⟨hc, rfl⟩ | ⟨hc, rfl⟩ | ⟨hc, body, -, rfl⟩ | ⟨hc, b, -, rfl⟩ | ⟨hc, hroom, rfl⟩
    | ⟨hc, rfl⟩ | ⟨hc, rfl⟩ := step_command_cases h ht
  · exact hk.rxLenAfter_eq.symm
  · simp [rxLenAfter, hc] -- `CRC.INIT`
  · simp [rxLenAfter, hc] -- `CRC.UPD`
  · simp [rxLenAfter, hc] -- `CRC.EMIT`
  · simp [rxLenAfter, hc] -- `REQ.BUILD`
  · simp [rxLenAfter, hc] -- `TX.POP`
  · simp [rxLenAfter, hc, hroom, Block.rxLen] -- `RX.PUSH`
  · simp [rxLenAfter, hc] -- `RX.FLUSH`
  · simp [rxLenAfter, hc] -- `RX.END`

/-- A command that does not write `CRC` where it is issued leaves it (R71, R122). -/
theorem step_command_crc_of_not_writesCrc {s t : State} {c : Command} {rest : List HostEvent}
    (h : s.host = .command c :: rest) (ht : step s = .next t) (hw : ¬ WritesCrc s.cfg s.blk.rxLen c) :
    t.blk.crc = s.blk.crc := by
  obtain ⟨k, -, rfl⟩ | ⟨hc, rfl⟩ | ⟨hc, rfl⟩ | ⟨-, rfl⟩ | ⟨hc, body, hbody, rfl⟩ | ⟨-, b, -, rfl⟩ | ⟨-, -, rfl⟩
    | ⟨-, rfl⟩ | ⟨hc, rfl⟩ := step_command_cases h ht
  · rfl -- a raise
  · exact absurd (.inl hc) hw
  · exact absurd (.inr (.inl hc)) hw
  · rfl -- `CRC.EMIT`
  · exact absurd (.inr (.inr (.inl ⟨hc, hbody.accepted⟩))) hw
  · rfl -- `TX.POP`
  · rfl -- `RX.PUSH`
  · rfl -- `RX.FLUSH`
  · obtain hcrc | ⟨hstrict, hlen, -⟩ := crcAfterTest_cases s
    · exact hcrc
    · exact absurd (.inr (.inr (.inr ⟨hc, hstrict, hlen⟩))) hw

theorem updBytes_cons_of_upd {c : Command} (h : c.cmd = 0x2) (cs : List Command) :
    updBytes (c :: cs) = c.b :: updBytes cs := by
  simp [updBytes, h]

theorem updBytes_cons_of_ne {c : Command} (h : c.cmd ≠ 0x2) (cs : List Command) : updBytes (c :: cs) = updBytes cs := by
  have hf : (c.cmd == 0x2) = false := beq_eq_false_iff_ne.mpr h
  simp only [updBytes, List.filter_cons, hf, Bool.false_eq_true, if_false]

/-- A run of interleavable commands absorbs the bytes of its `CRC.UPD` commands and nothing else. -/
theorem run_interleavable (cs : List Command) {s : State} {rest : List HostEvent}
    (hcs : CrcInterleavable s.cfg s.blk.rxLen cs) (h : s.host = cs.map .command ++ rest) :
    ∃ t, run cs.length s = .next t ∧ t.blk.crc = (updBytes cs).foldl crcByte s.blk.crc ∧ t.host = rest := by
  induction cs generalizing s with
  | nil => exact ⟨s, rfl, rfl, h⟩
  | cons c cs ih =>
    obtain ⟨hc, hcs⟩ := hcs
    obtain ⟨u, hstep⟩ := exists_step_command_eq_next h
    obtain ⟨huhost, hucfg⟩ := step_command_host_cfg h hstep
    rw [← step_command_rxLen h hstep, ← hucfg] at hcs
    obtain ⟨t, hrun, hcrc, hhost⟩ := ih hcs huhost
    refine ⟨t, (run_succ hstep _).trans hrun, hcrc.trans ?_, hhost⟩
    by_cases hupd : c.cmd = 0x2
    · obtain ⟨-, hcompletes⟩ := crcUpdAbsorbsByte s
      obtain rfl := Host.Outcome.next.inj (hstep.symm.trans (hcompletes c _ hupd h))
      rw [updBytes_cons_of_upd hupd, List.foldl_cons]
    · rw [updBytes_cons_of_ne hupd, step_command_crc_of_not_writesCrc h hstep (hc.resolve_left hupd)]

/-- Settles O16: `CRC.INIT`, then the run of `run_interleavable` from 0xFFFF. -/
theorem crcSurvivesInterleaving : Obligations.CrcSurvivesInterleaving := by
  intro s init cs rest hinit hcs h
  obtain ⟨-, hcompletes⟩ := crcInitLoadsFFFF s
  obtain ⟨u, hstep, hucrc, hurx, hucfg, huhost⟩ : ∃ u, step s = .next u ∧ u.blk.crc = crcInitValue
      ∧ u.blk.rxLen = s.blk.rxLen ∧ u.cfg = s.cfg ∧ u.host = cs.map .command ++ rest :=
    ⟨_, hcompletes init _ hinit h, rfl, rfl, rfl, rfl⟩
  rw [← hurx, ← hucfg] at hcs
  obtain ⟨t, hrun, hcrc, hhost⟩ := run_interleavable cs hcs huhost
  exact ⟨t, (run_succ hstep _).trans hrun, by rw [hcrc, hucrc, crcAcc], hhost⟩

end Sys2Proof.Machine
end

section
/-! PROOFS. The statements of spec/41_request_build.md on the multiple write's bound (R79, R109) and on the frame as a
function of the operands (R80). `step_build_cases` says what a `REQ.BUILD` can do; `RaisedBy` and `RequestBody` say by
which operands. -/

namespace Sys2Proof.Machine

/-! ### A raised exception, of an instruction and of a command (R105) -/

/-- An instruction whose meaning is `raise` raises as its statement says, by the exception's code. -/
theorem raises_of_exec_raise {i : Instr} {s : State} {k : CmdException} (h : exec i s = .next (raise k s)) :
    Raises i s k.code.toNat := by
  rw [Raises, h, BitVec.ofNat_toNat, BitVec.setWidth_eq]
  rfl

/-- A command that decodes to `i` raises as `i` does in the state with the event taken. -/
theorem commandRaises_of_decode {c : Command} {rest : List HostEvent} {s : State} {i : Instr} {k : Nat}
    (hdec : decode c s.cfg.strictCrc s.blk.rxbuf = .ok i) (hi : Raises i (s.withHost rest) k) :
    CommandRaises c rest s k :=
  fun h => (stepRunsDecodedInstruction s c rest i h hdec).trans hi

/-! ### The multiple write and its bound (R79, R109) -/

theorem exec_reqWrm_of_le {s : State} {vals : List Word} (hn : vals.length ≤ s.cfg.maxWriteRegs) (slave : Byte)
    (addr : Word) : exec (.reqWrm slave addr vals) s = .next (loadFrame (writeMultipleBody slave addr vals) s) :=
  if_neg (Nat.not_lt.mpr hn)

theorem exec_reqWrm_of_lt {s : State} {vals : List Word} (hn : s.cfg.maxWriteRegs < vals.length) (slave : Byte)
    (addr : Word) : exec (.reqWrm slave addr vals) s = .next (raise .badCount s) :=
  if_pos hn

/-- Settles O19: within the bound the body is `writeMultipleBody`, above it the meaning is `raise .badCount`; `REQ.BUILD`
dispatches function code 0x10 to that meaning, and taking the event leaves the bound. -/
theorem writeMultipleBuildsFrameOrRaises : Obligations.WriteMultipleBuildsFrameOrRaises := by
  refine ⟨rfl, ?_⟩
  intro s slave addr vals n body built
  have hbuild (t : State) (hn : n ≤ t.cfg.maxWriteRegs) : Completes (.reqWrm slave addr vals) t _ .nothing :=
    completes_of_exec_loadFrame (exec_reqWrm_of_le hn slave addr)
  have hraise (t : State) (hn : t.cfg.maxWriteRegs < n) : Raises (.reqWrm slave addr vals) t 3 :=
    raises_of_exec_raise (exec_reqWrm_of_lt hn slave addr)
  refine ⟨hbuild s, hraise s, ?_⟩
  rintro c rest hc hf rfl rfl rfl
  obtain ⟨-, -, -, h10⟩ := decode_by_fc hc s.cfg.strictCrc s.blk.rxbuf
  exact ⟨fun hn => commandCompletes_of_decode (h10 hf) (hbuild _ hn),
    fun hn => commandRaises_of_decode (h10 hf) (hraise _ hn)⟩

/-! ### The step of a `REQ.BUILD`, and what decides it (R80, R20) -/

/-- A `REQ.BUILD` raises, or it loads the frame of its body. -/
theorem step_build_cases {s t : State} {c : Command} {rest : List HostEvent} (hc : c.cmd = 0x4)
    (h : s.host = .command c :: rest) (ht : step s = .next t) :
    (∃ k, RaisedBy c s k ∧ t = raise k (s.withHost rest))
      ∨ ∃ body, RequestBody s.cfg c body ∧ t = loadFrame body (s.withHost rest) := by
  obtain hk | ⟨hc', -⟩ | ⟨hc', -⟩ | ⟨hc', -⟩ | ⟨-, hbody⟩ | ⟨hc', -⟩ | ⟨hc', -⟩ | ⟨hc', -⟩ | ⟨hc', -⟩ :=
    step_command_cases h ht
  · exact .inl hk
  case inr.inr.inr.inr.inl => exact .inr hbody
  all_goals exact absurd (hc.symm.trans hc') (by decide)

/-- The body is a function of the operands: two configurations that both build one build the same. -/
theorem RequestBody.unique {cfg cfg' : Config} {c : Command} {body body' : List Byte} (h : RequestBody cfg c body)
    (h' : RequestBody cfg' c body') : body = body' := by
  have hne (hf : c.fc = 0x03 ∨ c.fc = 0x04 ∨ c.fc = 0x06) : c.fc ≠ 0x10 := by
    rcases hf with hf | hf | hf <;> rw [hf] <;> decide
  cases h with
  | twoField hf =>
    cases h' with
    | twoField => rfl
    | multiple hf' => exact absurd hf' (hne hf)
  | multiple hf =>
    cases h' with
    | twoField hf' => exact absurd hf (hne hf')
    | multiple => rfl

/-- A refused `REQ.BUILD` is not an accepted one, and its function code says which exception refuses it (R108, R109). -/
theorem RaisedBy.of_build {c : Command} {s : State} {k : CmdException} (h : RaisedBy c s k) (hc : c.cmd = 0x4) :
    ¬ BuildAccepted s.cfg c ∧ k = if c.fc = 0x10 then .badCount else .illegalFunctionCode := by
  cases h with
  | illegalFunctionCode _ hf =>
    obtain ⟨h3, h4, h6, h10⟩ := hf
    refine ⟨?_, (if_neg h10).symm⟩
    rintro (h | h | h | ⟨h, -⟩) <;> contradiction
  | badCount _ hf hn => exact ⟨by simp [BuildAccepted, hf, hn], (if_pos hf).symm⟩
  | illegalCommand h => rw [hc] at h; exact absurd h (by decide)
  | txEmpty h | rxOverrun h => exact absurd (hc.symm.trans h) (by decide)

/-- Of the configuration, only `MAX_WRITE_REGS` decides whether a build is accepted. -/
theorem buildAccepted_congr {cfg cfg' : Config} (h : cfg.maxWriteRegs = cfg'.maxWriteRegs) (c : Command) :
    BuildAccepted cfg c ↔ BuildAccepted cfg' c := by
  rw [BuildAccepted, BuildAccepted, h]

/-- A refusal leaves a nonzero `EXC` (R106). -/
theorem raise_exc_ne_zero (k : CmdException) (s : State) : (raise k s).blk.exc ≠ 0 := code_ne_zero k

/-- Settles O21: with one `MAX_WRITE_REGS` the operands decide whether the build is accepted and which exception refuses
it, and where both states build, the body is the same (`RequestBody.unique`). -/
theorem frameDependsOnOperandsAlone : Obligations.FrameDependsOnOperandsAlone := by
  intro s₁ s₂ t₁ t₂ c rest₁ rest₂ hc h₁ h₂ ht₁ ht₂
  obtain ⟨k₁, hk₁, rfl⟩ | ⟨body₁, hb₁, rfl⟩ := step_build_cases hc h₁ ht₁ <;>
    obtain ⟨k₂, hk₂, rfl⟩ | ⟨body₂, hb₂, rfl⟩ := step_build_cases hc h₂ ht₂
  · obtain ⟨-, e₁⟩ := hk₁.of_build hc
    obtain ⟨-, e₂⟩ := hk₂.of_build hc
    exact ⟨fun _ => by rw [raise_blk, raise_blk, e₁, e₂], fun h => absurd h (raise_exc_ne_zero _ _)⟩
  · obtain ⟨hrefused, -⟩ := hk₁.of_build hc
    exact ⟨fun hm => absurd ((buildAccepted_congr hm c).mpr hb₂.accepted) hrefused,
      fun h => absurd h (raise_exc_ne_zero _ _)⟩
  · obtain ⟨hrefused, -⟩ := hk₂.of_build hc
    exact ⟨fun hm => absurd ((buildAccepted_congr hm c).mp hb₁.accepted) hrefused,
      fun _ h => absurd h (raise_exc_ne_zero _ _)⟩
  · obtain rfl := hb₁.unique hb₂
    exact ⟨fun _ => rfl, fun _ _ => ⟨rfl, rfl, rfl⟩⟩

end Sys2Proof.Machine
end

section
/-! PROOFS. The statements of spec/42_response_parse.md. The class of a response is found by its length, its trailer and
its header bytes; `rxEnd_completes` says once what the step of `RX.END` writes for the class it finds, and each
statement on the step is that lemma at a class. The statements on the classes' meanings hold by the meanings themselves. -/

namespace Sys2Proof.Machine

/-! ### The class of a response (R85) -/

/-- S2 (R88): 5 or more bytes, strict, with a trailer that is not the CRC. -/
theorem decodeResponse_badCrc {r : List Byte} (h5 : 5 ≤ r.length)
    (hbad : r.drop (r.length - 2) ≠ crc16 (r.take (r.length - 2))) : decodeResponse true r = .rspBadCrc := by
  have htrailer : trailerOk r = false := Bool.eq_false_iff.mpr (mt (trailerOk_iff r).mp hbad)
  obtain rfl | ⟨-, h4⟩ | ⟨slave, fc, b2, d0, d1, rest, rfl⟩ := response_shapes r
  · simp at h5
  · omega
  · rw [decodeResponse_long, htrailer]
    rfl

/-- S3 to S8: a response past the CRC test, by its header bytes and what follows them. -/
theorem decodeResponse_of_pastCrcTest {strict : Bool} {r : List Byte} {slave fc b2 : Byte}
    (hpast : PastCrcTest strict r) (h0 : r[0]? = some slave) (h1 : r[1]? = some fc) (h2 : r[2]? = some b2) :
    decodeResponse strict r = decodeClass slave fc b2 (r.drop 3) := by
  obtain ⟨h5, htrailer⟩ := hpast
  obtain ⟨hr, htail⟩ := response_of_header h5 h0 h1 h2
  have htest (hs : strict = true) : trailerOk (slave :: fc :: b2 :: r.drop 3) = true :=
    hr ▸ (trailerOk_iff r).mpr (htrailer hs)
  calc decodeResponse strict r = decodeResponse strict (slave :: fc :: b2 :: r.drop 3) := congrArg _ hr
    _ = decodeClass slave fc b2 (r.drop 3) := decodeResponse_past htail htest

/-- The data window has `W = min(B, L - 3)` bytes (R91). -/
theorem dataWindow_drop_three (bc : Byte) (r : List Byte) :
    dataWindow bc (r.drop 3) = (r.drop 3).take (min bc.toNat (r.length - 3)) := by
  rw [dataWindow, List.take_eq_take_min, List.length_drop]

/-- Settles O28: by length and trailer, then one class of `decodeClass` for each function code. -/
theorem responseClassByFunctionCode : Obligations.ResponseClassByFunctionCode := by
  intro strict r
  refine ⟨?_, fun h1 h4 => decodeResponse_short strict h1 h4, ?_, ?_⟩
  · intro h
    rw [List.length_eq_zero_iff.mp h, decodeResponse_nil]
  · rintro h5 rfl hbad
    exact decodeResponse_badCrc h5 hbad
  · intro slave fc b2 hpast h0 h1 h2 window
    have hwindow : dataWindow b2 (r.drop 3) = window := dataWindow_drop_three b2 r
    rw [decodeResponse_of_pastCrcTest hpast h0 h1 h2, ← hwindow]
    refine ⟨fun h => decodeClass_of_isErrorFc ((isErrorFc_iff fc).mpr h) .., ?_, ?_, ?_, ?_, ?_⟩
    · rintro rfl; exact decodeClass_readHolding ..
    · rintro rfl; exact decodeClass_readInput ..
    · rintro rfl; exact decodeClass_writeSingle ..
    · rintro rfl; exact decodeClass_writeMultiple ..
    · intro hlt h3 h4 h6 h10
      have herr : ¬ isErrorFc fc = true := mt (isErrorFc_iff fc).mp (Nat.not_le.mpr hlt)
      exact decodeClass_of_isRawFc ((isRawFc_iff fc).mpr ⟨herr, h3, h4, h6, h10⟩) ..

/-- Settles O35: with `L = B + 5` the `B` bytes after the byte count end where the trailer begins. -/
theorem lengthConsistentWindow : Obligations.LengthConsistentWindow := by
  intro strict r slave fc bc hpast h0 h1 h2 hlen
  have hwindow : dataWindow bc (r.drop 3) = (r.take (r.length - 2)).drop 3 := by
    rw [dataWindow, List.drop_take, hlen]
    rfl
  rw [decodeResponse_of_pastCrcTest hpast h0 h1 h2, ← hwindow]
  refine ⟨?_, ?_, ?_⟩
  · rintro rfl; exact decodeClass_readHolding ..
  · rintro rfl; exact decodeClass_readInput ..
  · have hfull : (dataWindow bc (r.drop 3)).length = bc.toNat := by
      rw [dataWindow, List.length_take, List.length_drop]; omega
    rw [windowRegs_length, hfull]

/-- Settles O36: the two modes differ in S2 alone, which is reached with 5 or more bytes. -/
theorem strictOnlyRejects : Obligations.StrictOnlyRejects := by
  intro r
  obtain rfl | ⟨h1, h4⟩ | ⟨slave, fc, b2, d0, d1, rest, hr⟩ := response_shapes r
  · exact .inl rfl
  · exact .inl ((decodeResponse_short true h1 h4).trans (decodeResponse_short false h1 h4).symm)
  · have h5 : 5 ≤ r.length := by simp [hr]
    by_cases htrailer : r.drop (r.length - 2) = crc16 (r.take (r.length - 2))
    · have hok : trailerOk r = true := (trailerOk_iff r).mpr htrailer
      left
      rw [hr] at hok ⊢
      rw [decodeResponse_long, decodeResponse_long, hok]
      rfl
    · exact .inr ⟨decodeResponse_badCrc h5 htrailer, h5, htrailer⟩

/-! ### Frames of the builder, fed to the parser (R99) -/

/-- A completed request has built a frame of 3 or more body bytes; that of a write request starts with its slave id and
function code. -/
theorem exec_request_frame {i : Instr} {s t : State} (hi : IsRequest i) (h : exec i s = .next t)
    (hexc : t.blk.exc = 0) :
    ∃ slave fc b2 body, t.blk.txbuf = frameOf (slave :: fc :: b2 :: body)
      ∧ (∀ slave' addr value, i = .reqWr1 slave' addr value → slave = slave' ∧ fc = fcWriteSingle)
      ∧ (∀ slave' addr vals, i = .reqWrm slave' addr vals → slave = slave' ∧ fc = fcWriteMultiple) := by
  cases i with
  | reqRdh | reqRdi =>
    obtain rfl := Host.Outcome.next.inj h
    exact ⟨_, _, _, _, rfl, nofun, nofun⟩
  | reqWr1 =>
    obtain rfl := Host.Outcome.next.inj h
    refine ⟨_, _, _, _, rfl, ?_, nofun⟩
    rintro _ _ _ ⟨⟩
    exact ⟨rfl, rfl⟩
  | reqWrm slave addr vals =>
    by_cases hn : vals.length ≤ s.cfg.maxWriteRegs
    · rw [exec_reqWrm_of_le hn] at h
      obtain rfl := Host.Outcome.next.inj h
      refine ⟨_, _, _, _, rfl, nofun, ?_⟩
      rintro _ _ _ ⟨⟩
      exact ⟨rfl, rfl⟩
    · rw [exec_reqWrm_of_lt (Nat.lt_of_not_le hn)] at h
      obtain rfl := Host.Outcome.next.inj h
      exact absurd hexc (raise_exc_ne_zero _ _)
  | _ => exact hi.elim

/-- Settles O22: a built frame has its class by its function code in both modes, and the lenient one is not BadCrc. -/
theorem builtFramesPassTheStrictTest : Obligations.BuiltFramesPassTheStrictTest := by
  intro i s t hi h hexc
  obtain ⟨slave, fc, b2, body, htx, hwr1, hwrm⟩ := exec_request_frame hi h hexc
  have hclass (strict : Bool) := htx ▸ decodeResponse_frameOf strict slave fc b2 body
  have hmodes : decodeResponse true t.blk.txbuf = decodeResponse false t.blk.txbuf :=
    (hclass true).trans (hclass false).symm
  refine ⟨hmodes, fun hbad => ?_, fun slave' addr value e => ?_, fun slave' addr vals e => ?_⟩
  · obtain ⟨-, hstrict⟩ := decodeResponse_wf false t.blk.txbuf
    exact absurd (hstrict (hmodes.symm.trans hbad)) Bool.false_ne_true
  · obtain ⟨rfl, rfl⟩ := hwr1 slave' addr value e
    exact (hclass true).trans (decodeClass_writeSingle ..)
  · obtain ⟨rfl, rfl⟩ := hwrm slave' addr vals e
    exact (hclass true).trans (decodeClass_writeMultiple ..)

/-! ### `CRC` after `RX.END` (R88) -/

/-- The model's accumulator after the CRC test is the one the statements name. -/
theorem crcAfterTest_eq_crcAfterRxEnd (s : State) : crcAfterTest s = crcAfterRxEnd s := rfl

/-- Fewer than 5 bytes do not reach the CRC test (R86, R87). -/
theorem crcAfterTest_of_lt {s : State} (h : s.blk.rxLen < 5) : crcAfterTest s = s.blk.crc :=
  if_neg fun ⟨_, h5⟩ => absurd h (Nat.not_lt.mpr h5)

/-- A second test of the same bytes leaves `CRC` as the first did. -/
theorem crcAfterTest_idem {s t : State} (hcfg : t.cfg = s.cfg) (hrx : t.blk.rxbuf = s.blk.rxbuf)
    (hcrc : t.blk.crc = crcAfterTest s) : crcAfterTest t = crcAfterTest s := by
  simp only [crcAfterTest, Block.rxLen, hcfg, hrx] at hcrc ⊢
  split
  · rfl
  · next hskip => rw [hcrc, if_neg hskip]

/-! ### The step of `RX.END` (R85, R97) -/

/-- The step of `RX.END` writes the result of the class its response has, and `CRC` after the CRC test. -/
theorem rxEnd_completes {c : Command} (hc : c.cmd = 0x8) (rest : List HostEvent) {s : State} {i : Instr}
    (hi : decodeResponse s.cfg.strictCrc s.blk.rxbuf = i) :
    CommandCompletes c rest s
      { s.blk with res := (classResult i).1, rreg := (classResult i).2, crc := crcAfterTest s } .nothing := by
  subst hi
  obtain ⟨-, -, -, -, -, -, -, hdec, -⟩ := decode_by_cmd c s.cfg.strictCrc s.blk.rxbuf
  exact commandCompletes_of_decode (hdec hc) (exec_decodeResponse (s.withHost rest))

/-- The block after the step of `RX.END`. -/
theorem rxEnd_blk {c : Command} (hc : c.cmd = 0x8) {rest : List HostEvent} {s t : State}
    (h : s.host = .command c :: rest) (ht : step s = .next t) :
    t.blk = { s.blk with
      res := (classResult (decodeResponse s.cfg.strictCrc s.blk.rxbuf)).1
      rreg := (classResult (decodeResponse s.cfg.strictCrc s.blk.rxbuf)).2
      crc := crcAfterTest s, exc := 0 } := by
  obtain rfl := Host.Outcome.next.inj (ht.symm.trans (rxEnd_completes hc rest rfl h))
  rfl

/-- Settles O27: the class's result is the result of `parse_response` (`classResult_decodeResponse`). -/
theorem rxEndComputesParseResponse : Obligations.RxEndComputesParseResponse := by
  intro s c rest hc p
  have hend := rxEnd_completes hc rest (s := s) rfl
  rwa [classResult_decodeResponse, crcAfterTest_eq_crcAfterRxEnd] at hend

/-- Settles O29: the meanings, and the two lengths that do not reach the CRC test. -/
theorem noResponseAndShortFrame : Obligations.NoResponseAndShortFrame := by
  intro s
  refine ⟨rfl, rfl, fun c rest hc => ⟨fun h0 => ?_, fun h1 h4 => ?_⟩⟩
  · have hnil : s.blk.rxbuf = [] := List.length_eq_zero_iff.mp h0
    have hend := rxEnd_completes hc rest (s := s) (i := .rspNone) (by rw [hnil, decodeResponse_nil])
    rwa [crcAfterTest_of_lt (by omega)] at hend
  · have hend := rxEnd_completes hc rest (decodeResponse_short s.cfg.strictCrc h1 h4)
    rwa [crcAfterTest_of_lt (by omega)] at hend

/-- Settles O30: the meaning, and S2 with the CRC test made. -/
theorem badCrcUnderTheStrictOption : Obligations.BadCrcUnderTheStrictOption := by
  intro s
  refine ⟨rfl, fun c rest hc hstrict h5 hbad => ?_⟩
  have hend := rxEnd_completes hc rest (s := s) (i := .rspBadCrc) (by rw [hstrict, decodeResponse_badCrc h5 hbad])
  rwa [crcAfterTest, if_pos ⟨hstrict, h5⟩] at hend

/-- A read response writes its header bytes and the registers of its data window (R91, R92). -/
theorem classResult_decodeClass_read {fc : Byte} (hfc : fc = 0x03 ∨ fc = 0x04) (slave bc : Byte) (tail : List Byte) :
    classResult (decodeClass slave fc bc tail)
      = ({ kind := .readOk, slave := slave, fc := fc, bc := bc }, windowRegs (dataWindow bc tail)) := by
  obtain rfl | rfl := hfc <;> rfl

/-- Byte `j` of the data window is byte `3 + j` of the response (R91). -/
theorem dataWindow_drop_three_getElem? {bc : Byte} {j : Nat} (hj : j < bc.toNat) (r : List Byte) :
    (dataWindow bc (r.drop 3))[j]? = r[3 + j]? := by
  rw [dataWindow, List.getElem?_take_of_lt hj, List.getElem?_drop]

/-- Settles O34: the registers are those of the data window, whose bytes are the response's from index 3 on. -/
theorem readRegistersAreBigEndianPairs : Obligations.ReadRegistersAreBigEndianPairs := by
  intro s c rest slave fc bc h hc hpast h0 h1 h2 hfc
  have hend := rxEnd_completes hc rest (decodeResponse_of_pastCrcTest hpast h0 h1 h2) h
  rw [classResult_decodeClass_read hfc] at hend
  have hnreg : (windowRegs (dataWindow bc (s.blk.rxbuf.drop 3))).length = min bc.toNat (s.blk.rxLen - 3) / 2 := by
    rw [windowRegs_length, dataWindow, List.length_take, List.length_drop]
  refine ⟨_, hend, rfl, hnreg, rfl, rfl, ?_⟩
  intro k hi lo hk hhi hlo
  have hk' : k < min bc.toNat (s.blk.rxLen - 3) / 2 := hnreg ▸ hk
  have e4 : 4 + 2 * k = 3 + (2 * k + 1) := by omega
  rw [e4] at hlo
  exact windowRegs_getElem? _ k hi lo ((dataWindow_drop_three_getElem? (by omega) _).trans hhi)
    ((dataWindow_drop_three_getElem? (by omega) _).trans hlo)

/-- Settles O37: the class is `RSP.ERR` with the code in byte 2, which `parseResult` maps by R60. -/
theorem deviceErrorSurfacesItsKind : Obligations.DeviceErrorSurfacesItsKind := by
  intro s c rest fc code h hc hpast h1 h2 herr
  have ⟨h5, _⟩ := hpast
  have h0 : s.blk.rxbuf[0]? = some s.blk.rxbuf[0] := List.getElem?_eq_getElem (by omega)
  have hclass := (decodeResponse_of_pastCrcTest hpast h0 h1 h2).trans (decodeClass_of_isErrorFc herr ..)
  exact ⟨_, rxEnd_completes hc rest hclass h, rfl, rfl, rfl, rfl⟩

/-- Settles O40: `rxEnd_blk` gives the result as a function of `RXBUF` and `STRICT_CRC`. -/
theorem parserIsContextFree : Obligations.ParserIsContextFree := by
  intro s₁ s₂ t₁ t₂ c₁ c₂ rest₁ rest₂ hc₁ hc₂ h₁ h₂ hrx hstrict ht₁ ht₂
  rw [rxEnd_blk hc₁ h₁ ht₁, rxEnd_blk hc₂ h₂ ht₂, hrx, hstrict]
  exact ⟨rfl, rfl⟩

/-- Settles O41: the first `RX.END` leaves what the second one reads, and its `CRC` is what the second one writes. -/
theorem rxEndIsIdempotent : Obligations.RxEndIsIdempotent := by
  intro s t u c d rest hc hd h ht hu
  have hblk := rxEnd_blk hc h ht
  obtain ⟨hhost, hcfg⟩ := step_command_host_cfg h ht
  have hcrc : crcAfterTest t = crcAfterTest s := crcAfterTest_idem hcfg (by rw [hblk]) (by rw [hblk])
  rw [rxEnd_blk hd hhost hu, hcrc, hcfg, hblk]

/-! ### The classes' meanings in every state (R90 to R95, log 6) -/

/-- Settles O31: the meaning, with `EXKNOWN` as membership. -/
theorem errorResponseEffect : Obligations.ErrorResponseEffect := by
  intro s slave fc code
  have hknown : exKnown code = decide (code.toNat ∈ [1, 2, 3, 4, 5, 6, 8]) :=
    Bool.eq_iff_iff.mpr ((exKnown_iff code).trans decide_eq_true_iff.symm)
  rw [← hknown]
  rfl

/-- Settles O32: the registers are `windowRegs` of the window, `be16` read as a number. -/
theorem readResponseEffect : Obligations.ReadResponseEffect := by
  intro s slave bc window
  refine ⟨windowRegs window, windowRegs_length window, fun k hi lo hhi hlo => ?_, rfl, rfl⟩
  rw [← be16_toNat]
  exact windowRegs_getElem? window k hi lo hhi hlo

/-- Settles O33: the three meanings. -/
theorem writeAndRawResponseEffect : Obligations.WriteAndRawResponseEffect := by
  intro s slave fc found
  exact ⟨rfl, rfl, rfl⟩

end Sys2Proof.Machine
end

section
/-! PROOFS. The statements of spec/43_stream_ports.md. Each port's meaning is given once per branch, in every state; a
command's step is that meaning in the state with the event taken. -/

namespace Sys2Proof.Machine

/-! ### The transmit port (R100, R110) -/

theorem exec_txPop_of_getElem? {s : State} {b : Byte} (hb : s.blk.txbuf[s.blk.txptr]? = some b) :
    exec .txPop s = .next (complete { s.blk with txptr := s.blk.txptr + 1 } (.byte b) s) := by
  simp only [exec, execTxPop, memRead, hb]

theorem exec_txPop_of_le {s : State} (hend : s.blk.txLen ≤ s.blk.txptr) :
    exec .txPop s = .next (raise .txEmpty s) := by
  simp only [exec, execTxPop, (memRead_eq_none _ _).mpr hend]

/-- Settles O23: the two branches of the read at `TXPTR`, for `exec` and for code 0x5, which decodes to `TX.POP`. -/
theorem txPopHandsOutNextByteOrRaises : Obligations.TxPopHandsOutNextByteOrRaises := by
  intro s
  have hdec (c : Command) (hc : c.cmd = 0x5) : decode c s.cfg.strictCrc s.blk.rxbuf = .ok .txPop := by
    obtain ⟨-, -, -, -, h5, -⟩ := decode_by_cmd c s.cfg.strictCrc s.blk.rxbuf
    exact h5 hc
  have hpop (t : State) (b : Byte) (hb : t.blk.txbuf[t.blk.txptr]? = some b) :
      Completes .txPop t { t.blk with txptr := t.blk.txptr + 1 } (.byte b) :=
    exec_txPop_of_getElem? hb
  have hraise (t : State) (hend : t.blk.txptr = t.blk.txLen) : Raises .txPop t 4 :=
    raises_of_exec_raise (exec_txPop_of_le hend.ge)
  exact ⟨fun b _ hb => ⟨hpop s b hb, fun c rest hc =>
      commandCompletes_of_decode (hdec c hc) (hpop (s.withHost rest) b hb)⟩,
    fun hend => ⟨hraise s hend, fun c rest hc =>
      commandRaises_of_decode (hdec c hc) (hraise (s.withHost rest) hend)⟩⟩

/-! ### The receive port (R101, R111, R102) -/

theorem exec_rxPush_of_lt {s : State} (hroom : s.blk.rxLen < s.cfg.rxMax) (b : Byte) :
    exec (.rxPush b) s = .next (complete { s.blk with rxbuf := memAppend s.blk.rxbuf b } .nothing s) :=
  if_neg (Nat.not_le.mpr hroom)

theorem exec_rxPush_of_le {s : State} (hfull : s.cfg.rxMax ≤ s.blk.rxLen) (b : Byte) :
    exec (.rxPush b) s = .next (raise .rxOverrun s) :=
  if_pos hfull

/-- Settles O25: below the size the byte is appended, at it the meaning is `raise .rxOverrun`; code 0x6 decodes to
`RX.PUSH` with the command's own byte, and taking the event leaves the buffer and its size. -/
theorem rxPushAppendsOrRaises : Obligations.RxPushAppendsOrRaises := by
  refine ⟨rfl, fun s => ?_⟩
  have hdec (c : Command) (hc : c.cmd = 0x6) : decode c s.cfg.strictCrc s.blk.rxbuf = .ok (.rxPush c.b) := by
    obtain ⟨-, -, -, -, -, h6, -⟩ := decode_by_cmd c s.cfg.strictCrc s.blk.rxbuf
    exact h6 hc
  have hpush (t : State) (hroom : t.blk.rxLen < t.cfg.rxMax) (b : Byte) :
      Completes (.rxPush b) t { t.blk with rxbuf := t.blk.rxbuf ++ [b] } .nothing :=
    exec_rxPush_of_lt hroom b
  have hraise (t : State) (hfull : t.blk.rxLen = t.cfg.rxMax) (b : Byte) : Raises (.rxPush b) t 5 :=
    raises_of_exec_raise (exec_rxPush_of_le hfull.ge b)
  exact ⟨fun hroom => ⟨hpush s hroom, fun c rest hc =>
      commandCompletes_of_decode (hdec c hc) (hpush (s.withHost rest) hroom c.b)⟩,
    fun hfull => ⟨hraise s hfull, fun c rest hc =>
      commandRaises_of_decode (hdec c hc) (hraise (s.withHost rest) hfull c.b)⟩⟩

/-- Settles O26: the meaning of `RX.FLUSH` in every state, and code 0x7 decodes to it. -/
theorem rxFlushEmptiesTheBuffer : Obligations.RxFlushEmptiesTheBuffer := by
  intro s
  have hflush (t : State) : Completes .rxFlush t { t.blk with rxbuf := [] } .nothing := rfl
  refine ⟨hflush s, fun c rest hc => ?_⟩
  obtain ⟨-, -, -, -, -, -, hdec, -⟩ := decode_by_cmd c s.cfg.strictCrc s.blk.rxbuf
  exact commandCompletes_of_decode (hdec hc) (hflush _)

end Sys2Proof.Machine
end

section
/-! PROOFS. The statements of spec/60_exceptions.md: the two rejections of the decoder, and what a refusal writes, reports
and leaves on record. A command's step ends in one of the two ways of `step_command_raises_or_completes`; over a run
without RESET its effect on `FLT` (`step_command_cleanRun`) is taken step by step. -/

namespace Sys2Proof.Machine

/-! ### The decoder's rejections (R107, R108, R112) -/

/-- A command the decoder rejects raises the exception that rejects it. -/
theorem commandRaises_of_decode_error {c : Command} {s : State} {k : CmdException}
    (hdec : decode c s.cfg.strictCrc s.blk.rxbuf = .error k) (rest : List HostEvent) :
    CommandRaises c rest s k.code.toNat := by
  intro h
  rw [step_command h, hdec, BitVec.ofNat_toNat, BitVec.setWidth_eq]
  rfl

/-- Settles O42: `decode_by_cmd` has the reserved codes rejected, whatever the operands. -/
theorem reservedCommandCodesRaise : Obligations.ReservedCommandCodesRaise := by
  intro s c rest hc
  obtain ⟨-, -, -, -, -, -, -, -, hdec⟩ := decode_by_cmd c s.cfg.strictCrc s.blk.rxbuf
  exact commandRaises_of_decode_error (hdec hc) rest

/-- Settles O43: of the answers of `decode_cases` only the rejection by function code is left. -/
theorem otherFunctionCodesRaise : Obligations.OtherFunctionCodesRaise := by
  intro s c rest hc h3 h4 h6 h10
  have hother : OtherFunctionCode c := ⟨hc, by simpa using ⟨h3, h4, h6, h10⟩⟩
  obtain ⟨i, -, -, -, -, hok⟩ | ⟨-, hreserved⟩ | ⟨hdec, -⟩ := decode_cases c s.cfg.strictCrc s.blk.rxbuf
  · exact absurd hother hok
  · exact absurd hother hreserved.not_otherFunctionCode
  · exact commandRaises_of_decode_error hdec rest

/-! ### What one command writes and reports (R105, R114) -/

/-- Settles O44: a nonzero `EXC` is a raise's, and `raise` writes just this. -/
theorem raisesArePrecise : Obligations.RaisesArePrecise := by
  intro s t c rest h ht hexc
  obtain ⟨k, -, rfl⟩ | ⟨b, v, rfl, -⟩ := step_command_raises_or_completes h ht
  · exact ⟨rfl, rfl⟩
  · exact absurd rfl hexc

/-- Settles O6: by the ways a command's step may go; only `CRC.EMIT` and `TX.POP` complete with a value. -/
theorem commandReportsOneCompletion : Obligations.CommandReportsOneCompletion := by
  intro s t c rest h ht
  obtain ⟨k, -, rfl⟩ | ⟨hc, rfl⟩ | ⟨hc, rfl⟩ | ⟨hc, rfl⟩ | ⟨hc, body, -, rfl⟩ | ⟨hc, b, -, rfl⟩ | ⟨hc, -, rfl⟩ | ⟨hc, rfl⟩
    | ⟨hc, rfl⟩ := step_command_cases h ht <;> refine ⟨rfl, _, rfl, ?_⟩
  · exact iff_of_true rfl fun hcomp => raise_exc_ne_zero _ _ hcomp.1
  · simp [hc] -- `CRC.INIT`
  · simp [hc] -- `CRC.UPD`
  · simp [hc] -- `CRC.EMIT`
  · simp [hc] -- `REQ.BUILD`
  · simp [hc] -- `TX.POP`
  · simp [hc] -- `RX.PUSH`
  · simp [hc] -- `RX.FLUSH`
  · simp [hc] -- `RX.END`

/-! ### The record of a run (R105) -/

/-- Every exception sets a bit of `FLT` (R16). -/
theorem fltBit_ne_zero (k : CmdException) : k.fltBit ≠ 0 := by cases k <;> decide

/-- After a refusal `FLT` is not 0 (R105). -/
theorem not_cleanRun_raise (k : CmdException) (s : State) : ¬ (raise k s).CleanRun := fun hflt =>
  fltBit_ne_zero k (BitVec.or_eq_zero_iff.mp hflt).2

/-- After a command, `FLT = 0` exactly when it was before and the command is not refused (R105). -/
theorem step_command_cleanRun {s t : State} {c : Command} {rest : List HostEvent} (h : s.host = .command c :: rest)
    (ht : step s = .next t) : t.CleanRun ↔ s.CleanRun ∧ t.blk.exc = 0 := by
  obtain ⟨k, -, rfl⟩ | ⟨b, v, rfl, hflt⟩ := step_command_raises_or_completes h ht
  · exact iff_of_false (not_cleanRun_raise _ _) fun hclean => raise_exc_ne_zero _ _ hclean.2
  · simp [State.CleanRun, hflt]

/-- Settles O46, by induction on the number of steps: an idle step changes nothing, and a command adds its one completion
in front of those of the run that is left. -/
theorem fltTellsWhetherAnyCommandWasRefused : Obligations.FltTellsWhetherAnyCommandWasRefused := by
  intro k
  induction k with
  | zero =>
    intro s t _ ht
    obtain rfl := Host.Outcome.next.inj ht
    exact ⟨[], by simp⟩
  | succ k ih =>
    intro s t hreset ht
    match h : s.host with
    | [] =>
      rw [run_succ (step_idle h)] at ht
      exact ih s t hreset ht
    | .reset :: rest => simp [h] at hreset
    | .command c :: rest =>
      obtain ⟨u, hu⟩ := exists_step_command_eq_next h
      obtain ⟨hhost, v, hdone, -⟩ := commandReportsOneCompletion s u c rest h hu
      rw [run_succ hu] at ht
      have hreset' : .reset ∉ u.host := by simpa [h, hhost] using hreset
      obtain ⟨new, hnew, hclean⟩ := ih u t hreset' ht
      refine ⟨{ exc := u.blk.exc, value := v } :: new, by simp [hnew, hdone], ?_⟩
      rw [hclean, step_command_cleanRun h hu, List.forall_mem_cons, and_assoc]

end Sys2Proof.Machine
end

section
/-! PROOFS. The statement of spec/70_reset_and_hazards.md section 3: the block is never stuck (R128). -/

namespace Sys2Proof.Machine

/-- Settles O5, by the host's next event: an idle step and RESET have their next state by their own laws, and a command
has one whatever it decodes to (`exists_step_command_eq_next`). -/
theorem everyStepHasNextState : Obligations.EveryStepHasNextState := by
  intro s
  match h : s.host with
  | [] => exact ⟨s, step_idle h⟩
  | .reset :: rest => exact ⟨_, step_reset h⟩
  | .command c :: rest => exact exists_step_command_eq_next h

end Sys2Proof.Machine
end
